-- ==== Sys2Proof/Word.lean ====
section
/-! DEFINITION. The byte, the ten-bit transaction word, and the transaction itself (spec/30_encoding.md R70). -/

namespace Sys2Proof

/-- A character code, a data byte, a DDRAM cell (R22, R57). -/
abbrev Byte := BitVec 8

/-- The transaction word `W = {rs, rw, db[7:0]}` (R70): `rs` is bit 9, `rw` is bit 8. -/
abbrev Word := BitVec 10

/-- One EXEC transaction (R70). `rs`: false selects the instruction register, true the data register.
`rw`: false is a write, true a read. `db` is the data byte, bit 7 most significant (R10). -/
structure Transaction where
  rs : Bool
  rw : Bool
  db : Byte
  deriving DecidableEq, Repr

end Sys2Proof
end

