-- ==== Sys2Proof/Config.lean ====
section
/-! DEFINITION. What an implementation fixes and what the spec leaves open (spec/00_scope.md R8, R9): the fixed sizes, the
glyph, the character ROM and the blink-off glyph (both without a body), and the reset flags. -/

namespace Sys2Proof

/-- A glyph (R13): eight rows of five pixels, `row0` at the top, `row7` at the bottom, bit 4 leftmost, a set bit lit.
The order of rows and pixels is the spec's own choice D12 (log 24). -/
structure Glyph where
  row0 : BitVec 5
  row1 : BitVec 5
  row2 : BitVec 5
  row3 : BitVec 5
  row4 : BitVec 5
  row5 : BitVec 5
  row6 : BitVec 5
  row7 : BitVec 5
  deriving DecidableEq, Repr, Inhabited

/-- The two values of the parameter `BLINK_OFF_GLYPH` (R9): what a blinking cursor's cell shows in the invisible phase. -/
inductive BlinkOff where
  | character
  | blank
  deriving DecidableEq, Repr, Inhabited

/-- The parameter `RESET_FLAGS` (R9, R33): the flags whose reset values no source fixes. -/
structure ResetFlags where
  ID : Bool
  SH : Bool
  D : Bool
  C : Bool
  B : Bool
  DL : Bool
  N : Bool
  F : Bool
  deriving DecidableEq, Repr

/-- What the projector is configured with: the character ROM and the blink-off glyph. -/
structure ProjectorConfig where
  cgrom : Byte → Glyph
  blinkOff : BlinkOff

/-- `DDRAM_SIZE` (R8). -/
abbrev Config.ddramSize : Nat := 80

/-- `SPACE` (R8): the fill value of CLEAR, and what every cell holds at reset (R33). -/
abbrev Config.space : Byte := 0x20

/-- `BUSY_READ_VALUE` (R8): "returns a fixed 0". -/
abbrev Config.busyReadValue : Byte := 0x00

/-- The default of `RESET_FLAGS` (R9, R33). PRESUMED: the HD44780 datasheet's internal-reset state, unsafe (log 3). -/
def Config.defaultResetFlags : ResetFlags :=
  { ID := true, SH := false, D := false, C := false, B := false, DL := true, N := false, F := false }

/-- `CGROM` (R9, R32): the bitmaps are in no source, so the ROM has no body and no proof can see one (log 5, safe). -/
opaque Config.cgrom : Byte → Glyph

/-- `BLINK_OFF_GLYPH` (R9, R164): either value is possible, so the constant has no body (log 6, safe). -/
opaque Config.blinkOffGlyph : BlinkOff

/-- The projector's configuration of this machine. -/
def Config.projector : ProjectorConfig := { cgrom := Config.cgrom, blinkOff := Config.blinkOffGlyph }

end Sys2Proof
end

