-- ==== Sys2Proof/Machine/State.lean ====
section
/-! DEFINITION. The machine's state as plain data (spec/10_state.md): the block's one record, the events the environment has
still to issue, and what observers have seen; the faults and refusals; the state after reset. -/

namespace Sys2Proof.Machine

/-- DDRAM (R22) as address and byte pairs, addresses strictly rising, no entry equal to `Config.space`, which is what an
unlisted cell reads as (R33: every cell is 0x20 at reset; log 8). -/
abbrev Memory := List Host.Cell

/-- The Row-Window Table (R24): always four entries, `r0` for physical row 0. -/
structure Rwt where
  r0 : Nat
  r1 : Nat
  r2 : Nat
  r3 : Nat
  deriving DecidableEq, Repr

/-- The block's whole state, one record (10_state.md, state table), under the spec's own names. The integers `AP` and
`RWT[i]` are below 80 in every reached state (R23, R26); that is an invariant (Safety.lean), not a type (log 7). -/
structure Block where
  /-- the 80 cells (R22) -/
  DDRAM : Memory
  /-- the DDRAM pointer (R23) -/
  AP : Nat
  /-- the Row-Window Table (R24) -/
  RWT : Rwt
  /-- entry mode, increment (R27) -/
  ID : Bool
  /-- entry mode, shift the window with every data access (R27) -/
  SH : Bool
  /-- display-on (R28) -/
  D : Bool
  /-- cursor-active, the underline (R28) -/
  C : Bool
  /-- cursor-blinking, blink enabled (R28) -/
  B : Bool
  /-- cursor-visible, the blink phase (R28, R36) -/
  CV : Bool
  /-- function set, data length (R30) -/
  DL : Bool
  /-- function set, line count (R30) -/
  N : Bool
  /-- function set, font (R30) -/
  F : Bool
  /-- the recorded CGRAM address (R31) -/
  CGA : BitVec 6
  deriving DecidableEq, Repr

/-- What the environment can do to the block, each event atomic (R7, R61; D1). -/
inductive Event where
  /-- the host's EXEC transaction (R70) -/
  | exec (t : Transaction)
  /-- the blink scheduler's TICK (R166) -/
  | tick
  /-- the renderer's PROJECT(L, S) (R160) -/
  | project (lines segments : Nat)
  /-- the accessor `cursor_position` for a line count (R112) -/
  | cursorPosition (lines : Nat)
  /-- the accessor `cursor-visible` (R167) -/
  | cursorVisible
  /-- the accessor `cursor-active` (R167) -/
  | cursorActive
  /-- the resize path `update_display` (R168), with the new geometry, which may be any (log 23) -/
  | updateDisplay (lines segments : Nat)
  /-- the reset event (R200): power-on or construction, with the implementation's `RESET_FLAGS` (log 22) -/
  | powerOn (flags : ResetFlags)
  /-- a caller overlapped PROJECT, TICK or an accessor with an EXEC in progress (R206): no meaning (log 15) -/
  | overlap
  deriving DecidableEq, Repr

/-- The response of one EXEC (D2). -/
inductive Response where
  /-- NONE, code 0 -/
  | none
  /-- DATA(v), code 1 -/
  | data (v : Byte)
  /-- ILLEGAL, code 2 (R180) -/
  | illegal
  deriving DecidableEq, Repr

/-- The visible grid: rows of glyphs (R160). -/
abbrev Grid := List (List Glyph)

/-- What an observer sees (R190): the response of an EXEC, a projected grid, the value of an accessor. -/
inductive Output where
  | response (r : Response)
  | grid (g : Grid)
  | cursorPosition (row : Nat) (col : Int)
  | cursorVisible (v : Bool)
  | cursorActive (v : Bool)
  deriving DecidableEq, Repr

/-- The machine: the block, and around it the model's own two lists. `events` are the events the environment has still to
issue, in the total order it chose (R61, R62; log 1). `outputs` is the observers' log, newest first; the block's record
never holds it (R181, D16; log 2). -/
structure State where
  block : Block
  events : List Event
  outputs : List Output
  deriving DecidableEq, Repr

/-- Why the machine stops with a fault: never. No access can fault (R54), nothing else is an error (R182), and
IllegalInstruction is a response of a transaction that completes (R180, R181), not a fault. Having no constructor is safe:
no behaviour of the spec is turned into a stop (log 19). -/
inductive Fault where
  deriving DecidableEq, Repr

/-- Why the model gives a step no meaning. -/
inductive Refusal where
  /-- raised by an arm of `exec` whose instruction has no meaning yet; no arm is one. Safe. -/
  | notModelled (mnemonic : String)
  /-- raised by a PROJECT whose line count is outside 1..4 or whose segment count is outside 1..80 (R161, D11). Safe. -/
  | projectionOutOfRange (lines segments : Nat)
  /-- raised by the accessor `cursor_position` for a line count outside 1..4 (R110, D11; log 14). Safe. -/
  | cursorPositionOutOfRange (lines : Nat)
  /-- raised by a run in which a caller overlapped two events (R206, D18). Safe. -/
  | overlappingEvents
  deriving DecidableEq, Repr

/-- `RWT_CANON` (R8, R25). -/
def Rwt.canonical : Rwt := { r0 := 0, r1 := 40, r2 := 20, r3 := 64 }

/-- The block right after the reset event, for any `RESET_FLAGS` (R33, R200). `AP`, `CV` and `CGA` are 0 by the spec's
decisions D4 and D5 (log 4). -/
def Block.reset (flags : ResetFlags) : Block :=
  { DDRAM := [], AP := 0, RWT := Rwt.canonical,
    ID := flags.ID, SH := flags.SH, D := flags.D, C := flags.C, B := flags.B, CV := false,
    DL := flags.DL, N := flags.N, F := flags.F, CGA := 0 }

/-- A machine right after reset, for any `RESET_FLAGS`, with the events its environment will issue. -/
def State.powerOn (flags : ResetFlags) (events : List Event) : State :=
  { block := Block.reset flags, events := events, outputs := [] }

/-- The machine right after reset with the default `RESET_FLAGS` (R33; log 3), no event issued yet (log 1). -/
def State.reset : State := State.powerOn Config.defaultResetFlags []

end Sys2Proof.Machine
end

