-- ==== Sys2Proof/Syntax.lean ====
section
/-! DEFINITION. The instructions: one constructor per row of spec/opcode_table.json, with the operands a rule reads
(spec/30_encoding.md R74, R75). Bits no rule reads (R76) are no operands. -/

namespace Sys2Proof

/-- The twelve rows of the opcode table. Flags are booleans, 1 = true (R74). -/
inductive Instr where
  /-- READ_DATA (R121) -/
  | readData
  /-- WRITE_DATA (R120): the whole `db` is the data byte -/
  | writeData (data : Byte)
  /-- READ_BUSY (R130) -/
  | readBusy
  /-- SET_DDRAM_ADDR (R133): `A = db[6:0]` -/
  | setDdramAddr (a : BitVec 7)
  /-- SET_CGRAM_ADDR (R134): `A = db[5:0]` -/
  | setCgramAddr (a : BitVec 6)
  /-- FUNCTION_SET (R135): data length, line count, font -/
  | functionSet (dl n f : Bool)
  /-- CURSOR_CONTROL (R137): display_shift, shift_right -/
  | cursorControl (sc rl : Bool)
  /-- DISPLAY_CONTROL (R138): display, cursor, blink -/
  | displayControl (d c b : Bool)
  /-- ENTRY_MODE_SET (R139): increment, shift -/
  | entryModeSet (inc sh : Bool)
  /-- RETURN_HOME (R140) -/
  | returnHome
  /-- CLEAR (R141) -/
  | clear
  /-- ILLEGAL (R142): the all-zero instruction byte -/
  | illegal
  deriving DecidableEq, Repr

/-- The table's mnemonic of an instruction. -/
def Instr.mnemonic : Instr → String
  | .readData => "READ_DATA"
  | .writeData _ => "WRITE_DATA"
  | .readBusy => "READ_BUSY"
  | .setDdramAddr _ => "SET_DDRAM_ADDR"
  | .setCgramAddr _ => "SET_CGRAM_ADDR"
  | .functionSet _ _ _ => "FUNCTION_SET"
  | .cursorControl _ _ => "CURSOR_CONTROL"
  | .displayControl _ _ _ => "DISPLAY_CONTROL"
  | .entryModeSet _ _ => "ENTRY_MODE_SET"
  | .returnHome => "RETURN_HOME"
  | .clear => "CLEAR"
  | .illegal => "ILLEGAL"

end Sys2Proof
end

