-- ==== Sys2Proof/WellFormed.lean ====
section
/-! DEFINITION. The checks on what arrives from outside: instructions, and the ranges of PROJECT and `cursor_position`
(spec/43_projector.md R161, spec/40_addressing_engine.md R110). -/

namespace Sys2Proof

/-- Every instruction is well formed: each operand's type is exactly its encoding's field (R74), and no value of a field is
reserved (R76, R77). -/
def Instr.wellFormed : Instr → Bool
  | .readData => true
  | .writeData _ => true
  | .readBusy => true
  | .setDdramAddr _ => true
  | .setCgramAddr _ => true
  | .functionSet _ _ _ => true
  | .cursorControl _ _ => true
  | .displayControl _ _ _ => true
  | .entryModeSet _ _ => true
  | .returnHome => true
  | .clear => true
  | .illegal => true

/-- A line count the projector has a meaning for (R9, R161; D11). -/
def linesInRange (lines : Nat) : Bool := 1 ≤ lines && lines ≤ 4

/-- A segment count the projector has a meaning for (R9, R161; D11). -/
def segmentsInRange (segments : Nat) : Bool := 1 ≤ segments && segments ≤ 80

/-- An event the spec gives a meaning: PROJECT and `cursor_position` in range, and no overlap (R161, R206). DESIGN CHOICE: a
resize is one with any geometry, since the spec gives it no range of its own (log 23). -/
def Machine.Event.wellFormed : Machine.Event → Bool
  | .exec _ => true
  | .tick => true
  | .project lines segments => linesInRange lines && segmentsInRange segments
  | .cursorPosition lines => linesInRange lines
  | .cursorVisible => true
  | .cursorActive => true
  | .updateDisplay _ _ => true
  | .powerOn _ => true
  | .overlap => false

end Sys2Proof
end

