-- ==== Sys2Proof/Decode.lean ====
section
/-! DEFINITION. The decoder (spec/30_encoding.md R70 to R78), the encoder (R79), and the opcode table as mask and match. -/

namespace Sys2Proof

/-- The word of a transaction, `W = {rs, rw, db[7:0]}` (R70). -/
def Transaction.pack (t : Transaction) : Word := BitVec.ofBool t.rs ++ BitVec.ofBool t.rw ++ t.db

/-- The transaction a word stands for (R70). -/
def Transaction.unpack (w : Word) : Transaction :=
  { rs := w.getLsbD 9, rw := w.getLsbD 8, db := w.extractLsb' 0 8 }

/-- An instruction-register write, decoded by priority from bit 7 down; the branch order is normative (R73). -/
def decodeIr (db : Byte) : Instr :=
  if db.getLsbD 7 then .setDdramAddr (db.extractLsb' 0 7)
  else if db.getLsbD 6 then .setCgramAddr (db.extractLsb' 0 6)
  else if db.getLsbD 5 then .functionSet (db.getLsbD 4) (db.getLsbD 3) (db.getLsbD 2)
  else if db.getLsbD 4 then .cursorControl (db.getLsbD 3) (db.getLsbD 2)
  else if db.getLsbD 3 then .displayControl (db.getLsbD 2) (db.getLsbD 1) (db.getLsbD 0)
  else if db.getLsbD 2 then .entryModeSet (db.getLsbD 1) (db.getLsbD 0)
  else if db.getLsbD 1 then .returnHome
  else if db.getLsbD 0 then .clear
  else .illegal

/-- The instruction a transaction is (R71). Total: every one of the 1024 words is an instruction (R77). -/
def decode (t : Transaction) : Instr :=
  match t.rs, t.rw with
  | true, true => .readData
  | true, false => .writeData t.db
  | false, true => .readBusy
  | false, false => decodeIr t.db

/-- Why a number is no transaction word. -/
inductive DecodeError where
  /-- it has a bit set above bit 9, and a transaction word has ten bits (R70; log 21) -/
  | widerThanTransaction (w : Nat)
  deriving DecidableEq, Repr

/-- Decoding of any number: one of ten bits is an instruction, a wider one is rejected by name. -/
def decodeWide (w : Nat) : Except DecodeError Instr :=
  if w < 1024 then .ok (decode (Transaction.unpack (BitVec.ofNat 10 w))) else .error (.widerThanTransaction w)

/-- The instruction the decoder reads from a table word: its low `nbits` bits, the higher ones zero. -/
def decodeTableWord (nbits w : Nat) : Option Instr :=
  match decodeWide (w % 2 ^ nbits) with
  | .ok i => some i
  | .error _ => none

/-- A one-bit flag at bit `k` of the data byte. -/
def flagAt (flag : Bool) (k : Nat) : Byte := (BitVec.ofBool flag).setWidth 8 <<< k

/-- The transaction of an instruction, every don't-care bit written as 0 (R79). -/
def encode : Instr → Transaction
  | .readData => { rs := true, rw := true, db := 0x00 }
  | .writeData data => { rs := true, rw := false, db := data }
  | .readBusy => { rs := false, rw := true, db := 0x00 }
  | .setDdramAddr a => { rs := false, rw := false, db := 0x80 ||| a.setWidth 8 }
  | .setCgramAddr a => { rs := false, rw := false, db := 0x40 ||| a.setWidth 8 }
  | .functionSet dl n f =>
    { rs := false, rw := false, db := 0x20 ||| flagAt dl 4 ||| flagAt n 3 ||| flagAt f 2 }
  | .cursorControl sc rl => { rs := false, rw := false, db := 0x10 ||| flagAt sc 3 ||| flagAt rl 2 }
  | .displayControl d c b =>
    { rs := false, rw := false, db := 0x08 ||| flagAt d 2 ||| flagAt c 1 ||| flagAt b 0 }
  | .entryModeSet inc sh => { rs := false, rw := false, db := 0x04 ||| flagAt inc 1 ||| flagAt sh 0 }
  | .returnHome => { rs := false, rw := false, db := 0x02 }
  | .clear => { rs := false, rw := false, db := 0x01 }
  | .illegal => { rs := false, rw := false, db := 0x00 }

/-- The word of an instruction. -/
def encodeWord (i : Instr) : Word := (encode i).pack

/-- A row of spec/opcode_table.json: the word matches when its bits under `mask` are `pattern`. -/
structure OpcodeRow where
  mnemonic : String
  mask : Word
  pattern : Word
  deriving DecidableEq, Repr

/-- Does the word belong to the row? -/
def OpcodeRow.accepts (r : OpcodeRow) (w : Word) : Bool := w &&& r.mask == r.pattern

/-- spec/opcode_table.json, row by row. -/
def opcodeTable : List OpcodeRow :=
  [⟨"READ_DATA", 0x300, 0x300⟩,
   ⟨"WRITE_DATA", 0x300, 0x200⟩,
   ⟨"READ_BUSY", 0x300, 0x100⟩,
   ⟨"SET_DDRAM_ADDR", 0x380, 0x080⟩,
   ⟨"SET_CGRAM_ADDR", 0x3C0, 0x040⟩,
   ⟨"FUNCTION_SET", 0x3E0, 0x020⟩] ++
  [⟨"CURSOR_CONTROL", 0x3F0, 0x010⟩,
   ⟨"DISPLAY_CONTROL", 0x3F8, 0x008⟩,
   ⟨"ENTRY_MODE_SET", 0x3FC, 0x004⟩,
   ⟨"RETURN_HOME", 0x3FE, 0x002⟩,
   ⟨"CLEAR", 0x3FF, 0x001⟩,
   ⟨"ILLEGAL", 0x3FF, 0x000⟩]

/-- The bits of the word that a rule reads for this instruction (R76): every bit but the row's don't-care bits. -/
def careMask : Instr → Word
  | .readData => 0x300
  | .writeData _ => 0x3FF
  | .readBusy => 0x300
  | .setDdramAddr _ => 0x3FF
  | .setCgramAddr _ => 0x3FF
  | .functionSet _ _ _ => 0x3FC
  | .cursorControl _ _ => 0x3FC
  | .displayControl _ _ _ => 0x3FF
  | .entryModeSet _ _ => 0x3FF
  | .returnHome => 0x3FE
  | .clear => 0x3FF
  | .illegal => 0x3FF

end Sys2Proof
end

