-- ==== Sys2Proof/Machine/Ops.lean ====
section
/-! DEFINITION. The shared operations: modulo-80 arithmetic (spec/00_scope.md R11), the DDRAM store (spec/20_memory.md R50
to R52), the addressing engine's micro-operations (spec/40_addressing_engine.md R100 to R105), and the completion of a
transaction with its response, the illegal one among them (spec/60_exceptions.md R180, R181). -/

namespace Sys2Proof.Machine

/-- `mod80(v)`, the floored modulo (R11). -/
def mod80 (v : Int) : Nat := (v % 80).toNat

/-- The cell at an address: its entry, or `Config.space` where none is listed (R33). -/
def Memory.read : Memory → Nat → Byte
  | [], _ => Config.space
  | (a, v) :: rest, x => if a = x then v else Memory.read rest x

/-- The memory without the cell at an address. -/
def Memory.erase : Memory → Nat → Memory
  | [], _ => []
  | (a, v) :: rest, x => if a = x then Memory.erase rest x else (a, v) :: Memory.erase rest x

/-- The memory with a cell put before the first one of a higher address. -/
def Memory.insert : Memory → Nat → Byte → Memory
  | [], x, w => [(x, w)]
  | (a, v) :: rest, x, w => if x < a then (x, w) :: (a, v) :: rest else (a, v) :: Memory.insert rest x w

/-- The memory with a byte stored; storing what an unlisted cell reads as removes the entry, so the form stays canonical. -/
def Memory.store (m : Memory) (x : Nat) (w : Byte) : Memory :=
  if w = Config.space then m.erase x else (m.erase x).insert x w

/-- Are the addresses all above a bound, below 80, rising, and the bytes listed not `Config.space`? -/
def Memory.canonicalFrom : Nat → Memory → Bool
  | _, [] => true
  | lo, (a, v) :: rest => lo ≤ a && a < Config.ddramSize && v != Config.space && Memory.canonicalFrom (a + 1) rest

/-- The canonical form of DDRAM: addresses strictly rising and in [0,79], no entry equal to what an unlisted cell reads as. -/
def Memory.wf (m : Memory) : Bool := Memory.canonicalFrom 0 m

/-- `MemRead(a, 1)`: `DDRAM[mod80(a)]` (R50). -/
def memRead (m : Memory) (a : Int) : Byte := m.read (mod80 a)

/-- `MemWrite(a, 1, v)`: `DDRAM[mod80(a)] <- v` (R51). -/
def memWrite (m : Memory) (a : Int) (v : Byte) : Memory := m.store (mod80 a) v

/-- `MemClear()`: all 80 cells hold 0x20 (R52), which is the memory that lists nothing. -/
def memClear : Memory := []

/-- The entry of a physical row, 0 to 3 (R24); the fourth for any number above. -/
def Rwt.entry (t : Rwt) : Nat → Nat
  | 0 => t.r0
  | 1 => t.r1
  | 2 => t.r2
  | _ => t.r3

/-- One function applied to all four entries, which are always written together (R24). -/
def Rwt.map (f : Nat → Nat) (t : Rwt) : Rwt := { r0 := f t.r0, r1 := f t.r1, r2 := f t.r2, r3 := f t.r3 }

/-- The four entries in table order. -/
def Rwt.toList (t : Rwt) : List Nat := [t.r0, t.r1, t.r2, t.r3]

def Block.setDDRAM (k : Block) (m : Memory) : Block := { k with DDRAM := m }

def Block.setAP (k : Block) (a : Nat) : Block := { k with AP := a }

def Block.setRWT (k : Block) (t : Rwt) : Block := { k with RWT := t }

def Block.setCGA (k : Block) (a : BitVec 6) : Block := { k with CGA := a }

/-- The signed step of a direction bit: +1 when set, -1 when clear (R102, R103). -/
def stepBy (up : Bool) : Int := if up then 1 else -1

/-- `shift_table(delta)`: every entry moves by the same signed amount modulo 80 (R100). -/
def Block.shiftTable (k : Block) (delta : Int) : Block :=
  k.setRWT (k.RWT.map fun r => mod80 ((r : Int) + delta))

/-- `set_pointer(addr)` (R101). -/
def Block.setPointer (k : Block) (addr : Int) : Block := k.setAP (mod80 addr)

/-- `advance()`, after every data write or read (R102): the table follows on reads too (90_conflicts.md C8; log 18). -/
def Block.advance (k : Block) : Block :=
  let moved := k.setAP (mod80 ((k.AP : Int) + stepBy k.ID))
  if k.SH then moved.shiftTable (stepBy k.ID) else moved

/-- `shift(display_shift, shift_right)` (R103). The table moves against the visual direction (R104). -/
def Block.shift (k : Block) (displayShift shiftRight : Bool) : Block :=
  if displayShift then k.shiftTable (stepBy (!shiftRight))
  else k.setAP (mod80 ((k.AP : Int) + stepBy shiftRight))

/-- `reset_home()` (R105). -/
def Block.resetHome (k : Block) : Block := (k.setAP 0).setRWT Rwt.canonical

/-- `clear` of the block: every cell 0x20, then home (R141; CLEAR homes the pointer by the spec's decision D5, log 9). -/
def Block.clearAll (k : Block) : Block := (k.setDDRAM memClear).resetHome

/-- The observers' log with one more output. -/
def State.observe (s : State) (o : Output) : State := { s with outputs := o :: s.outputs }

/-- A transaction that completes: the block after it and the response (D2), in one atomic step (R59). -/
def State.complete (s : State) (k : Block) (r : Response) : State :=
  { s with block := k, outputs := .response r :: s.outputs }

/-- `raise IllegalInstruction()`, the one exception (R12, R180): the transaction ends with the ILLEGAL response and the
block does not change (R181). It saves nothing, changes no mode and goes nowhere, and there is no return from it (R183). -/
def State.raiseIllegalInstruction (s : State) : State := s.complete s.block .illegal

end Sys2Proof.Machine
end

