-- ==== Sys2Proof/Machine/Operands.lean ====
section
/-! DEFINITION. The operand forms: the one addressing mode DDRAM[AP] of the data transactions (spec/41_data_register.md R120,
R121) and the DDRAM address field (spec/30_encoding.md R74). -/

namespace Sys2Proof.Machine

/-- The address a data transaction uses: `AP`, reduced by the store (R50, R51). -/
def Block.dataAddress (k : Block) : Nat := mod80 k.AP

/-- The byte a data read returns, read before the advance (R121). -/
def Block.dataRead (k : Block) : Byte := memRead k.DDRAM k.AP

/-- The block with a byte written at the pointer, before the advance (R120). -/
def Block.dataWrite (k : Block) (v : Byte) : Block := k.setDDRAM (memWrite k.DDRAM k.AP v)

/-- The integer a seven-bit DDRAM address field stands for, before the reduction modulo 80 (R74). -/
def ddramField (a : BitVec 7) : Int := (a.toNat : Int)

end Sys2Proof.Machine
end

