-- ==== Sys2Proof/Machine/Flags.lean ====
section
/-! DEFINITION. The flags: who writes each (spec/10_state.md R27 to R30), and the blink phase (spec/43_projector.md R166). -/

namespace Sys2Proof.Machine

/-- The entry-mode flags (R27, R139). -/
def Block.setEntryMode (k : Block) (inc sh : Bool) : Block := { k with ID := inc, SH := sh }

/-- The display flags; the blink phase takes the new value of `B` (R138; the spec's decision D6, log 10). -/
def Block.setDisplay (k : Block) (d c b : Bool) : Block := { k with D := d, C := c, B := b, CV := b }

/-- The function-set flags, which no rule reads (R30, R135). -/
def Block.setFunction (k : Block) (dl n f : Bool) : Block := { k with DL := dl, N := n, F := f }

/-- TICK: the phase flips while blink is enabled, and is cleared otherwise (R166; the spec's decision D7, log 11). -/
def Block.tick (k : Block) : Block := { k with CV := if k.B then !k.CV else false }

end Sys2Proof.Machine
end

