-- ==== Sys2Proof/Machine/DataRegister.lean ====
section
/-! DEFINITION. The data-register transactions (spec/41_data_register.md). -/

namespace Sys2Proof.Machine

/-- WRITE_DATA: the byte goes to the address before the advance, whatever `D`, `CGA` or `DL` hold (R120). -/
def execWriteData (data : Byte) (s : State) : Host.Outcome State Fault Refusal :=
  .next (s.complete (s.block.dataWrite data).advance .none)

/-- READ_DATA: the byte is read before the advance; DDRAM is unchanged (R121). -/
def execReadData (s : State) : Host.Outcome State Fault Refusal :=
  .next (s.complete s.block.advance (.data s.block.dataRead))

end Sys2Proof.Machine
end

