-- ==== Sys2Proof/Machine/InstructionRegister.lean ====
section
/-! DEFINITION. The instruction-register transactions (spec/42_instruction_register.md). -/

namespace Sys2Proof.Machine

/-- READ_BUSY: a fixed 0, nothing changes (R130). -/
def execReadBusy (s : State) : Host.Outcome State Fault Refusal :=
  .next (s.complete s.block (.data Config.busyReadValue))

/-- SET_DDRAM_ADDR (R133). -/
def execSetDdramAddr (a : BitVec 7) (s : State) : Host.Outcome State Fault Refusal :=
  .next (s.complete (s.block.setPointer (ddramField a)) .none)

/-- SET_CGRAM_ADDR: the address is recorded and nothing reads it (R134; log 16). -/
def execSetCgramAddr (a : BitVec 6) (s : State) : Host.Outcome State Fault Refusal :=
  .next (s.complete (s.block.setCGA a) .none)

/-- FUNCTION_SET: stored only (R135, R136). -/
def execFunctionSet (dl n f : Bool) (s : State) : Host.Outcome State Fault Refusal :=
  .next (s.complete (s.block.setFunction dl n f) .none)

/-- CURSOR_CONTROL (R137). -/
def execCursorControl (sc rl : Bool) (s : State) : Host.Outcome State Fault Refusal :=
  .next (s.complete (s.block.shift sc rl) .none)

/-- DISPLAY_CONTROL (R138). -/
def execDisplayControl (d c b : Bool) (s : State) : Host.Outcome State Fault Refusal :=
  .next (s.complete (s.block.setDisplay d c b) .none)

/-- ENTRY_MODE_SET (R139). -/
def execEntryModeSet (inc sh : Bool) (s : State) : Host.Outcome State Fault Refusal :=
  .next (s.complete (s.block.setEntryMode inc sh) .none)

/-- RETURN_HOME (R140). -/
def execReturnHome (s : State) : Host.Outcome State Fault Refusal :=
  .next (s.complete s.block.resetHome .none)

/-- CLEAR (R141). -/
def execClear (s : State) : Host.Outcome State Fault Refusal :=
  .next (s.complete s.block.clearAll .none)

/-- ILLEGAL: raises IllegalInstruction, always (R142, R180). -/
def execIllegal (s : State) : Host.Outcome State Fault Refusal :=
  .next s.raiseIllegalInstruction

end Sys2Proof.Machine
end

