-- ==== Sys2Proof/Machine/Dispatch.lean ====
section
/-! DEFINITION. One arm per instruction: the decoder "dispatches to one of the ten supported operations", a busy read, or the
illegal-instruction signal (spec/00_scope.md R2, spec/42_instruction_register.md R131). -/

namespace Sys2Proof.Machine

def exec (i : Instr) (s : State) : Host.Outcome State Fault Refusal :=
  match i with
  | .readData => Sys2Proof.Machine.execReadData s
  | .writeData data => Sys2Proof.Machine.execWriteData data s
  | .readBusy => Sys2Proof.Machine.execReadBusy s
  | .setDdramAddr a => Sys2Proof.Machine.execSetDdramAddr a s
  | .setCgramAddr a => Sys2Proof.Machine.execSetCgramAddr a s
  | .functionSet dl n f => Sys2Proof.Machine.execFunctionSet dl n f s
  | .cursorControl sc rl => Sys2Proof.Machine.execCursorControl sc rl s
  | .displayControl d c b => Sys2Proof.Machine.execDisplayControl d c b s
  | .entryModeSet inc sh => Sys2Proof.Machine.execEntryModeSet inc sh s
  | .returnHome => Sys2Proof.Machine.execReturnHome s
  | .clear => Sys2Proof.Machine.execClear s
  | .illegal => Sys2Proof.Machine.execIllegal s

end Sys2Proof.Machine
end

