-- ==== Sys2Proof/Machine/Projector.lean ====
section
/-! DEFINITION. The visible-grid projector, the cursor overlay (spec/43_projector.md R160 to R165), the cursor position
(spec/40_addressing_engine.md R110), and what the block does at each event that is no EXEC (TICK, PROJECT, the accessors,
the resize path, reset). -/

namespace Sys2Proof.Machine

/-- `BLANK` (R13). -/
def blankGlyph : Glyph := ⟨0, 0, 0, 0, 0, 0, 0, 0⟩

/-- `FULL` (R13). -/
def fullGlyph : Glyph := ⟨0x1F, 0x1F, 0x1F, 0x1F, 0x1F, 0x1F, 0x1F, 0x1F⟩

/-- `UNDERLINE(g)` (R13). -/
def underline (g : Glyph) : Glyph := { g with row7 := 0x1F }

/-- The CGROM lookup (R56): codes outside 0x20..0x7F are blank, and so is the space, whatever the ROM's parameter. -/
def glyphOf (cfg : ProjectorConfig) (code : Byte) : Glyph :=
  if 0x20 < code.toNat ∧ code.toNat ≤ 0x7F then cfg.cgrom code else blankGlyph

/-- The scan of R110 from table index `i` on: the last entry not above the pointer wins. -/
def scanRows (ap : Nat) : Nat → List Nat → Nat × Int → Nat × Int
  | _, [], best => best
  | i, r :: rest, best => scanRows ap (i + 1) rest (if r ≤ ap then (i, (ap : Int) - r) else best)

/-- `cursor_position(L)` (R110): the scan covers the first `min(L,4)` entries, and the answer without a match is row 0 with
`AP - RWT[0]`; the column is signed and never reduced (R111; the spec's decision D10, log 13). -/
def Block.cursorPosition (k : Block) (lines : Nat) : Nat × Int :=
  scanRows k.AP 0 (k.RWT.toList.take (min lines 4)) (0, (k.AP : Int) - k.RWT.r0)

/-- The character glyph at a grid position, before the overlay (R160). -/
def Block.cellGlyph (cfg : ProjectorConfig) (k : Block) (x y : Nat) : Glyph :=
  glyphOf cfg (memRead k.DDRAM ((k.RWT.entry x : Int) + y))

/-- The overlay of the cursor cell (R164; log 12). -/
def Block.overlayGlyph (cfg : ProjectorConfig) (k : Block) (g : Glyph) : Glyph :=
  let shown :=
    if k.CV then fullGlyph
    else if k.B && cfg.blinkOff == .blank then blankGlyph
    else g
  if k.C then underline shown else shown

/-- Is a grid position the cursor's? A column below 0 or past the grid is no position (R163; log 12). -/
def Block.isCursorCell (k : Block) (lines x y : Nat) : Bool :=
  (k.cursorPosition lines).1 == x && (k.cursorPosition lines).2 == (y : Int)

/-- One cell of the grid: blank with the display off (R162), else the character with the overlay at the cursor. -/
def Block.gridCell (cfg : ProjectorConfig) (k : Block) (lines x y : Nat) : Glyph :=
  if k.D then
    if k.isCursorCell lines x y then k.overlayGlyph cfg (k.cellGlyph cfg x y) else k.cellGlyph cfg x y
  else blankGlyph

/-- `PROJECT(L, S)` (R160): L rows of S glyphs, a pure read. -/
def Block.project (cfg : ProjectorConfig) (k : Block) (lines segments : Nat) : Grid :=
  (List.range lines).map fun x => (List.range segments).map fun y => k.gridCell cfg lines x y

/-- TICK (R166). -/
def onTick (s : State) : Host.Outcome State Fault Refusal := .next { s with block := s.block.tick }

/-- A PROJECT request: the grid is shown, nothing changes (R160); out of range it has no meaning (R161; log 14). -/
def onProject (lines segments : Nat) (s : State) : Host.Outcome State Fault Refusal :=
  if linesInRange lines && segmentsInRange segments then
    .next (s.observe (.grid (s.block.project Config.projector lines segments)))
  else .refused (.projectionOutOfRange lines segments)

/-- The accessor `cursor_position` (R112). -/
def onCursorPosition (lines : Nat) (s : State) : Host.Outcome State Fault Refusal :=
  if linesInRange lines then
    .next (s.observe (.cursorPosition (s.block.cursorPosition lines).1 (s.block.cursorPosition lines).2))
  else .refused (.cursorPositionOutOfRange lines)

/-- The accessor `cursor-visible`: `CV` (R167). -/
def onCursorVisible (s : State) : Host.Outcome State Fault Refusal := .next (s.observe (.cursorVisible s.block.CV))

/-- The accessor `cursor-active`: `C` (R167). -/
def onCursorActive (s : State) : Host.Outcome State Fault Refusal := .next (s.observe (.cursorActive s.block.C))

/-- The resize path: geometry only, the state is unchanged; a later PROJECT passes the new counts (R168, R202; log 23).
DESIGN CHOICE: the spec gives a resize no range of its own, and one that carries L outside 1..4 or S outside 1..80 is accepted
like any other (log 23). -/
def onUpdateDisplay (_lines _segments : Nat) (s : State) : Host.Outcome State Fault Refusal := .next s

/-- The reset event sets every field of the block's record (R200; log 22). -/
def onPowerOn (flags : ResetFlags) (s : State) : Host.Outcome State Fault Refusal :=
  .next { s with block := Block.reset flags }

/-- Overlapping events have no meaning (R206; log 15). -/
def onOverlap (_s : State) : Host.Outcome State Fault Refusal := .refused .overlappingEvents

end Sys2Proof.Machine
end

