-- ==== Sys2Proof/Machine/Step.lean ====
section
/-! DEFINITION. One step: the environment's next event, whole and alone (spec/20_memory.md R59, R61). -/

namespace Sys2Proof.Machine

/-- One event at a state whose list no longer holds it. An EXEC runs the instruction its transaction decodes to (R71). -/
def handle (e : Event) (s : State) : Host.Outcome State Fault Refusal :=
  match e with
  | .exec t => exec (decode t) s
  | .tick => onTick s
  | .project lines segments => onProject lines segments s
  | .cursorPosition lines => onCursorPosition lines s
  | .cursorVisible => onCursorVisible s
  | .cursorActive => onCursorActive s
  | .updateDisplay lines segments => onUpdateDisplay lines segments s
  | .powerOn flags => onPowerOn flags s
  | .overlap => onOverlap s

/-- The step takes the first of the environment's events; with none to come, the block rests as it is (R61; log 1). -/
def step (s : State) : Host.Outcome State Fault Refusal :=
  match s.events with
  | [] => .next s
  | e :: rest => handle e { s with events := rest }

/-- The state whose very next event is the EXEC of a table word, its low `nbits` bits (R21: instructions are not fetched, the
host issues them). A number wider than a transaction word places none (log 21). -/
def State.withFetchWord (s : State) (nbits w : Nat) : State :=
  if w % 2 ^ nbits < 1024 then
    { s with events := .exec (Transaction.unpack (BitVec.ofNat 10 (w % 2 ^ nbits))) :: s.events }
  else s

end Sys2Proof.Machine
end

