-- ==== Sys2Proof/Machine/Asm.lean ====
section
/-! DEFINITION. The assembly lines the spec defines (spec/30_encoding.md R79): instructions, pseudo-instructions and `.RAW`,
with the ranges of their operands, and the transactions a line assembles to. -/

namespace Sys2Proof

/-- One assembly line (R79), its operands as written: numbers, and the characters of a string. -/
inductive AsmLine where
  | setDdramAddr (a : Nat)
  | setCgramAddr (a : Nat)
  | functionSet (dl n f : Nat)
  | cursorControl (sc rl : Nat)
  | displayControl (d c b : Nat)
  | entryModeSet (inc sh : Nat)
  | returnHome
  | clear
  | writeData (v : Nat)
  | readData
  | readBusy
  /-- `.RAW rs, rw, db`: any triple -/
  | raw (rs rw db : Nat)
  /-- `WRITE_STRING "s"` -/
  | writeString (s : List Char)
  /-- `CURSOR_LEFT` = `CURSOR_CONTROL 0, 0` -/
  | cursorLeft
  /-- `CURSOR_RIGHT` = `CURSOR_CONTROL 0, 1` -/
  | cursorRight
  /-- `DISPLAY_SHIFT_L` = `CURSOR_CONTROL 1, 0` -/
  | displayShiftL
  /-- `DISPLAY_SHIFT_R` = `CURSOR_CONTROL 1, 1` -/
  | displayShiftR
  deriving DecidableEq, Repr

/-- Operands are 0 or 1 for flags, in the stated ranges for addresses, and bytes or ASCII characters for data (R79). -/
def AsmLine.wellFormed : AsmLine → Bool
  | .setDdramAddr a => a ≤ 127
  | .setCgramAddr a => a ≤ 63
  | .functionSet dl n f => dl ≤ 1 && n ≤ 1 && f ≤ 1
  | .cursorControl sc rl => sc ≤ 1 && rl ≤ 1
  | .displayControl d c b => d ≤ 1 && c ≤ 1 && b ≤ 1
  | .entryModeSet inc sh => inc ≤ 1 && sh ≤ 1
  | .returnHome => true
  | .clear => true
  | .writeData v => v ≤ 255
  | .readData => true
  | .readBusy => true
  | .raw rs rw db => rs ≤ 1 && rw ≤ 1 && db ≤ 255
  | .writeString s => s.all fun c => c.toNat ≤ 127
  | .cursorLeft => true
  | .cursorRight => true
  | .displayShiftL => true
  | .displayShiftR => true

/-- The ASCII code of a character (R79). -/
def asciiByte (c : Char) : Byte := BitVec.ofNat 8 c.toNat

/-- The transactions of a well-formed line, in order (R79). -/
def AsmLine.assemble : AsmLine → List Transaction
  | .setDdramAddr a => [encode (.setDdramAddr (BitVec.ofNat 7 a))]
  | .setCgramAddr a => [encode (.setCgramAddr (BitVec.ofNat 6 a))]
  | .functionSet dl n f => [encode (.functionSet (dl == 1) (n == 1) (f == 1))]
  | .cursorControl sc rl => [encode (.cursorControl (sc == 1) (rl == 1))]
  | .displayControl d c b => [encode (.displayControl (d == 1) (c == 1) (b == 1))]
  | .entryModeSet inc sh => [encode (.entryModeSet (inc == 1) (sh == 1))]
  | .returnHome => [encode .returnHome]
  | .clear => [encode .clear]
  | .writeData v => [encode (.writeData (BitVec.ofNat 8 v))]
  | .readData => [encode .readData]
  | .readBusy => [encode .readBusy]
  | .raw rs rw db => [{ rs := rs == 1, rw := rw == 1, db := BitVec.ofNat 8 db }]
  | .writeString s => s.map fun c => encode (.writeData (asciiByte c))
  | .cursorLeft => [encode (.cursorControl false false)]
  | .cursorRight => [encode (.cursorControl false true)]
  | .displayShiftL => [encode (.cursorControl true false)]
  | .displayShiftR => [encode (.cursorControl true true)]

end Sys2Proof
end

