-- ==== Sys2Proof/Safety.lean ====
section
/-! DEFINITION. What claims are stated in: the block's invariant, the states a run reaches, a run with no illegal instruction
in its response log, and the part of the block that some rule reads. -/

namespace Sys2Proof.Machine

/-- The pointer and the four entries are addresses (R23, R26). -/
abbrev Block.inRange (k : Block) : Prop :=
  k.AP < 80 ∧ k.RWT.r0 < 80 ∧ k.RWT.r1 < 80 ∧ k.RWT.r2 < 80 ∧ k.RWT.r3 < 80

/-- The invariant every event keeps: addresses in range (R23, R26), DDRAM in its canonical form (R22), and no blink block
while blink is disabled (R29). -/
abbrev Block.inv (k : Block) : Prop :=
  k.inRange ∧ k.DDRAM.wf = true ∧ (k.B = false → k.CV = false)

/-- The states a run reaches from a state, step by step. -/
inductive Reaches (s : State) : State → Prop where
  | here : Reaches s s
  | after (t u : State) (h : Reaches s t) (hstep : step t = .next u) : Reaches s u

/-- A state reached from reset, for some `RESET_FLAGS` and some order of events the environment chose (R62). -/
def Reached (t : State) : Prop :=
  ∃ flags : ResetFlags, ∃ events : List Event, Reaches (State.powerOn flags events) t

/-- No illegal instruction in the response log (R181, D16: such a claim is about the log). -/
abbrev State.noIllegal (s : State) : Prop := Output.response .illegal ∉ s.outputs

/-- The block with the four fields no rule reads set to fixed values (R30, R31). -/
def Block.withoutInert (k : Block) : Block := { k with DL := false, N := false, F := false, CGA := 0 }

end Sys2Proof.Machine
end

