-- ==== Sys2Proof/Certificates/Slice0/Obligations.lean ====
section
/-! DEFINITION. The statements for the provers. Each docstring names the rule of spec/ it formalises; a clause that rests on a
decision the spec calls its own names that decision and the log entry. In every statement "adding 79 modulo 80" is the
decrement, as in R11: mod80(-1) = 79. -/

open Sys2Proof Sys2Proof.Machine

/-! ## Decoding and encoding -/

/-- R143: the eight one-hot bytes select the eight operations in order, and the zero byte signals IllegalInstruction. -/
def Obligations.OneHotBytesDispatch : Prop :=
  ∀ (s : State) (rest : List Event) (b : Byte), s.events = .exec ⟨false, false, b⟩ :: rest →
    (b = 0x80 → step s = exec (.setDdramAddr 0) { s with events := rest }) ∧
    (b = 0x40 → step s = exec (.setCgramAddr 0) { s with events := rest }) ∧
    (b = 0x20 → step s = exec (.functionSet false false false) { s with events := rest }) ∧
    (b = 0x10 → step s = exec (.cursorControl false false) { s with events := rest }) ∧
    (b = 0x08 → step s = exec (.displayControl false false false) { s with events := rest }) ∧
    (b = 0x04 → step s = exec (.entryModeSet false false) { s with events := rest }) ∧
    (b = 0x02 → step s = exec .returnHome { s with events := rest }) ∧
    (b = 0x01 → step s = exec .clear { s with events := rest }) ∧
    (b = 0x00 → step s = .next { s with events := rest, outputs := .response .illegal :: s.outputs })

/-- R71: the first level of decoding, on (rs, rw). An instruction-register write is never one of the other three classes. -/
def Obligations.FirstLevelDecode : Prop :=
  ∀ t : Transaction,
    (decode t = .readData ↔ t.rs = true ∧ t.rw = true) ∧
    (∀ v : Byte, decode t = .writeData v ↔ t.rs = true ∧ t.rw = false ∧ v = t.db) ∧
    (decode t = .readBusy ↔ t.rs = false ∧ t.rw = true) ∧
    (t.rs = false → t.rw = false → decode t = decodeIr t.db)

/-- R72, R73: an instruction-register write is decoded by its most significant set bit, which the byte's value as a number
places, and the fields below it are the operands. -/
def Obligations.MostSignificantBitSelects : Prop :=
  ∀ (t : Transaction) (n : Nat), t.rs = false → t.rw = false → n = t.db.toNat →
    (128 ≤ n → decode t = .setDdramAddr (BitVec.ofNat 7 (n - 128))) ∧
    (64 ≤ n → n < 128 → decode t = .setCgramAddr (BitVec.ofNat 6 (n - 64))) ∧
    (32 ≤ n → n < 64 → decode t = .functionSet (n.testBit 4) (n.testBit 3) (n.testBit 2)) ∧
    (16 ≤ n → n < 32 → decode t = .cursorControl (n.testBit 3) (n.testBit 2)) ∧
    (8 ≤ n → n < 16 → decode t = .displayControl (n.testBit 2) (n.testBit 1) (n.testBit 0)) ∧
    (4 ≤ n → n < 8 → decode t = .entryModeSet (n.testBit 1) (n.testBit 0)) ∧
    (2 ≤ n → n < 4 → decode t = .returnHome) ∧
    (n = 1 → decode t = .clear) ∧
    (n = 0 → decode t = .illegal)

/-- R77: the only illegal encoding is the zero word; every word belongs to exactly one row of the opcode table, the row of
the instruction it decodes to; ILLEGAL raises the illegal response, and READ_BUSY is defined and returns 0. -/
def Obligations.EveryWordHasExactlyOneRow : Prop :=
  (∀ t : Transaction,
    (decode t = .illegal ↔ t.rs = false ∧ t.rw = false ∧ t.db = 0x00) ∧
    (∃ r, r ∈ opcodeTable ∧ r.accepts t.pack = true ∧ r.mnemonic = (decode t).mnemonic ∧
      ∀ q, q ∈ opcodeTable → q.accepts t.pack = true → q = r)) ∧
  (∀ s : State, exec .illegal s = .next { s with outputs := .response .illegal :: s.outputs }) ∧
  (∀ s : State, exec .readBusy s = .next { s with outputs := .response (.data 0x00) :: s.outputs })

/-- Don't-care bits (30_encoding.md section 4; the spec's decision D22, log 20): any data byte with a read, the two low bits
of FUNCTION_SET and CURSOR_CONTROL, the low bit of RETURN_HOME; and no other non-zero byte is illegal. -/
def Obligations.DontCareBitsChangeNothing : Prop :=
  (∀ (t : Transaction) (v : Byte), t.rw = true → decode { t with db := v } = decode t) ∧
  (∀ (t : Transaction) (v : Byte), t.rs = false → t.rw = false → 16 ≤ t.db.toNat → t.db.toNat < 64 → v.toNat < 4 →
    decode { t with db := t.db ^^^ v } = decode t) ∧
  (∀ t : Transaction, t.rs = false → t.rw = false → (t.db = 0x02 ∨ t.db = 0x03) → decode t = .returnHome) ∧
  (∀ t : Transaction, t.rs = false → t.rw = false → t.db ≠ 0x00 → decode t ≠ .illegal)

/-- Every well-formed instruction, with every operand, is what its encoded word decodes to: as a transaction, as the ten-bit
word, and as the opcode table's number (30_encoding.md sections 1, 2 and 5). -/
def Obligations.EncodeThenDecode : Prop :=
  ∀ i : Instr, i.wellFormed = true →
    decode (encode i) = i ∧
    decode (Transaction.unpack (encodeWord i)) = i ∧
    decodeTableWord 16 (encodeWord i).toNat = some i

/-- Encoding what a transaction decodes to gives its word back with the don't-care bits written as 0 (30_encoding.md
section 4, decision D22, and section 5, decision D19; log 20); a word is the transaction it packs. -/
def Obligations.DecodeThenEncode : Prop :=
  ∀ t : Transaction,
    encodeWord (decode t) = t.pack &&& careMask (decode t) ∧ Transaction.unpack t.pack = t

/-- The assembly syntax (30_encoding.md section 5; the spec's notation D19, log 26): the words of each line, and that
`WRITE_STRING` is one WRITE_DATA a character, in order. -/
def Obligations.AssemblerWords : Prop :=
  (∀ a, a ≤ 127 → (AsmLine.setDdramAddr a).assemble.map Transaction.pack = [BitVec.ofNat 10 (0x80 + a)]) ∧
  (∀ a, a ≤ 63 → (AsmLine.setCgramAddr a).assemble.map Transaction.pack = [BitVec.ofNat 10 (0x40 + a)]) ∧
  (∀ dl n f, dl ≤ 1 → n ≤ 1 → f ≤ 1 →
    (AsmLine.functionSet dl n f).assemble.map Transaction.pack = [BitVec.ofNat 10 (0x20 + dl * 16 + n * 8 + f * 4)]) ∧
  (∀ sc rl, sc ≤ 1 → rl ≤ 1 →
    (AsmLine.cursorControl sc rl).assemble.map Transaction.pack = [BitVec.ofNat 10 (0x10 + sc * 8 + rl * 4)]) ∧
  (∀ d c b, d ≤ 1 → c ≤ 1 → b ≤ 1 →
    (AsmLine.displayControl d c b).assemble.map Transaction.pack = [BitVec.ofNat 10 (0x08 + d * 4 + c * 2 + b)]) ∧
  (∀ inc sh, inc ≤ 1 → sh ≤ 1 →
    (AsmLine.entryModeSet inc sh).assemble.map Transaction.pack = [BitVec.ofNat 10 (0x04 + inc * 2 + sh)]) ∧
  (AsmLine.returnHome.assemble.map Transaction.pack = [0x002]) ∧
  (AsmLine.clear.assemble.map Transaction.pack = [0x001]) ∧
  (∀ v, v ≤ 255 → (AsmLine.writeData v).assemble.map Transaction.pack = [BitVec.ofNat 10 (0x200 + v)]) ∧
  (AsmLine.readData.assemble.map Transaction.pack = [0x300]) ∧
  (AsmLine.readBusy.assemble.map Transaction.pack = [0x100]) ∧
  (∀ rs rw db, rs ≤ 1 → rw ≤ 1 → db ≤ 255 →
    (AsmLine.raw rs rw db).assemble.map Transaction.pack = [BitVec.ofNat 10 (rs * 512 + rw * 256 + db)]) ∧
  (∀ cs : List Char, (AsmLine.writeString cs).wellFormed = true →
    (AsmLine.writeString cs).assemble.map Transaction.pack = cs.map fun c => BitVec.ofNat 10 (0x200 + c.toNat)) ∧
  (AsmLine.cursorLeft.assemble.map Transaction.pack = [0x010]) ∧
  (AsmLine.cursorRight.assemble.map Transaction.pack = [0x014]) ∧
  (AsmLine.displayShiftL.assemble.map Transaction.pack = [0x018]) ∧
  (AsmLine.displayShiftR.assemble.map Transaction.pack = [0x01C])

/-! ## Steps and events -/

/-- A step whose first event is an EXEC runs the instruction its transaction decodes to, at the state without that event; a
word placed by `withFetchWord` is run so, at the very state it was placed in; with no event to come the machine rests
(log 1, DESIGN CHOICE). -/
def Obligations.StepRunsTheDecodedInstruction : Prop :=
  (∀ (s : State) (t : Transaction) (rest : List Event), s.events = .exec t :: rest →
    step s = exec (decode t) { s with events := rest }) ∧
  (∀ (s : State) (w : Word), step (s.withFetchWord 16 w.toNat) = exec (decode (Transaction.unpack w)) s) ∧
  (∀ s : State, s.events = [] → step s = .next s)

/-- Events are taken one at a time and whole: a step that answers has taken exactly the first event, and adds at most one
output, an EXEC exactly its one response (20_memory.md section 4; log 1 and log 2). -/
def Obligations.OneEventAStep : Prop :=
  ∀ s t : State, step s = .next t →
    (s.events = [] ∧ t = s) ∨
    ∃ e, s.events = e :: t.events ∧
      (∀ tr, e = .exec tr → ∃ r, t.outputs = .response r :: s.outputs) ∧
      (t.outputs = s.outputs ∨ ∃ o, t.outputs = o :: s.outputs)

/-- The block changes only at EXEC and TICK (20_memory.md section 4), and at the reset event (70_reset_and_hazards.md
section 1; log 22). -/
def Obligations.BlockChangesOnlyAtExecAndTick : Prop :=
  ∀ (s t : State) (e : Event) (rest : List Event), s.events = e :: rest → step s = .next t →
    (∀ tr, e ≠ .exec tr) → e ≠ .tick → (∀ flags, e ≠ .powerOn flags) → t.block = s.block

/-- A step is refused exactly when its event has no meaning: PROJECT or `cursor_position` out of range (decision D11, log 14),
or overlapping events (decision D18, log 15); otherwise it answers, a resize with any geometry among the rest (log 23, DESIGN
CHOICE). -/
def Obligations.RefusedExactlyWithoutMeaning : Prop :=
  ∀ (s : State) (e : Event) (rest : List Event), s.events = e :: rest →
    ((∃ r, step s = .refused r) ↔ e.wellFormed = false) ∧ ((∃ t, step s = .next t) ↔ e.wellFormed = true)

/-- Every transaction is accepted and completes with exactly one response, since no DDRAM access can fault and nothing but the
zero word is an error (20_memory.md section 1; 60_exceptions.md section 1). The response is ILLEGAL for the zero word alone, a
byte for a read, and NONE for every other write: its three forms are the spec's decision D2 (log 19), and NONE for the
instruction-register writes is the derived rule on their responses (42_instruction_register.md). -/
def Obligations.EveryTransactionIsAnswered : Prop :=
  ∀ (tr : Transaction) (s : State), ∃ (t : State) (r : Response),
    exec (decode tr) s = .next t ∧ t.events = s.events ∧ t.outputs = .response r :: s.outputs ∧
    (r = .illegal ↔ tr = ⟨false, false, 0x00⟩) ∧
    ((∃ v, r = .data v) ↔ tr.rw = true) ∧
    (r = .none ↔ tr.rw = false ∧ tr ≠ ⟨false, false, 0x00⟩)

/-! ## The data register -/

/-- WRITE_DATA stores the byte at the address before the advance and at no other cell, advances the pointer, moves the table
when SH = 1, changes no flag, and returns nothing (41_data_register.md; 20_memory.md section 1). That the byte goes to DDRAM
whatever CGA holds is the spec's decision D13 (log 16). -/
def Obligations.WriteDataStoresAndAdvances : Prop :=
  (∀ t : Transaction, t.pack &&& 0x300 = 0x200 → decode t = .writeData t.db) ∧
  ∀ (v : Byte) (s : State), ∃ t : State, exec (.writeData v) s = .next t ∧
    (s.block.AP < 80 → s.block.dataAddress = s.block.AP) ∧
    (∀ x : Int, memRead t.block.DDRAM x =
      if mod80 x = s.block.dataAddress then v else memRead s.block.DDRAM x) ∧
    t.block.AP = (s.block.AP + if s.block.ID then 1 else 79) % 80 ∧
    (∀ x, t.block.RWT.entry x =
      if s.block.SH then (s.block.RWT.entry x + if s.block.ID then 1 else 79) % 80 else s.block.RWT.entry x) ∧
    { t.block with DDRAM := s.block.DDRAM, AP := s.block.AP, RWT := s.block.RWT } = s.block ∧
    t.events = s.events ∧ t.outputs = .response .none :: s.outputs

/-- R121: READ_DATA returns the cell at the pointer, read before the advance, then advances; DDRAM and the flags are
unchanged, and the data byte of the transaction is ignored. -/
def Obligations.ReadDataReturnsAndAdvances : Prop :=
  (∀ t : Transaction, t.pack &&& 0x300 = 0x300 → decode t = .readData) ∧
  ∀ s : State, ∃ t : State, exec .readData s = .next t ∧
    t.outputs = .response (.data (memRead s.block.DDRAM s.block.AP)) :: s.outputs ∧
    t.block.AP = (s.block.AP + if s.block.ID then 1 else 79) % 80 ∧
    (∀ x, t.block.RWT.entry x =
      if s.block.SH then (s.block.RWT.entry x + if s.block.ID then 1 else 79) % 80 else s.block.RWT.entry x) ∧
    { t.block with AP := s.block.AP, RWT := s.block.RWT } = s.block ∧
    t.events = s.events

/-- R102: `advance`, applied by both data transactions: the pointer moves by the direction ID gives, and with SH = 1 every
entry moves by the same amount, so the distance from each entry to the pointer is unchanged; with SH = 0 the table stays. -/
def Obligations.WindowFollowsThePointer : Prop :=
  ∀ (i : Instr) (s : State), (i = .readData ∨ ∃ v, i = .writeData v) → ∃ t : State, exec i s = .next t ∧
    t.block.AP = mod80 ((s.block.AP : Int) + if s.block.ID then 1 else -1) ∧
    (s.block.SH = false → t.block.RWT = s.block.RWT) ∧
    (s.block.SH = true → ∀ x,
      t.block.RWT.entry x = mod80 ((s.block.RWT.entry x : Int) + if s.block.ID then 1 else -1) ∧
      mod80 ((t.block.AP : Int) - t.block.RWT.entry x) = mod80 ((s.block.AP : Int) - s.block.RWT.entry x))

/-- R60: a data read is not idempotent: two in a row answer from two different addresses. READ_BUSY and the projection have
no side effect on the block. -/
def Obligations.TwoReadsUseTwoAddresses : Prop :=
  (∀ s : State, ∃ t u : State, exec .readData s = .next t ∧ exec .readData t = .next u ∧
    s.block.dataAddress ≠ t.block.dataAddress ∧
    u.outputs = .response (.data (memRead s.block.DDRAM t.block.AP)) ::
      .response (.data (memRead s.block.DDRAM s.block.AP)) :: s.outputs ∧
    t.block.AP = (s.block.AP + if s.block.ID then 1 else 79) % 80 ∧
    (s.block.SH = true → ∀ x, t.block.RWT.entry x = (s.block.RWT.entry x + if s.block.ID then 1 else 79) % 80)) ∧
  (∀ s : State, ∃ t : State, exec .readBusy s = .next t ∧ t.block = s.block) ∧
  (∀ (s t : State) (lines segments : Nat) (rest : List Event),
    s.events = .project lines segments :: rest → step s = .next t → t.block = s.block)

/-- The round trip (41_data_register.md, the rule of the round-trip property): after a write, the old address set again and a
read, the byte read is the byte written, in every state. -/
def Obligations.WriteThenReadBack : Prop :=
  ∀ (c : Byte) (s : State) (rest : List Event),
    s.events = .exec (encode (.writeData c)) ::
      .exec (encode (.setDdramAddr (BitVec.ofNat 7 s.block.dataAddress))) :: .exec (encode .readData) :: rest →
    ∃ t : State, Host.Core.run core 3 s = .next t ∧ t.events = rest ∧
      t.outputs = .response (.data c) :: .response .none :: .response .none :: s.outputs

/-- A string of at most 80 bytes written with ID = 1, SH = 0 fills consecutive cells from the pointer on, wrapping at 79, and
leaves every other cell, the table and the flags as they were (from the rules of WRITE_DATA and `advance`). -/
def Obligations.WriteStringFillsConsecutiveCells : Prop :=
  ∀ (cs : List Byte) (s : State) (rest : List Event), cs.length ≤ 80 → s.block.ID = true → s.block.SH = false →
    s.block.AP < 80 → s.events = (cs.map fun c => Event.exec (encode (.writeData c))) ++ rest →
    ∃ t : State, Host.Core.run core cs.length s = .next t ∧ t.events = rest ∧
      t.block.AP = (s.block.AP + cs.length) % 80 ∧
      (∀ (j : Nat) (c : Byte), cs[j]? = some c → memRead t.block.DDRAM ((s.block.AP + j : Nat) : Int) = c) ∧
      (∀ j : Nat, cs.length ≤ j → j < 80 → memRead t.block.DDRAM ((s.block.AP + j : Nat) : Int) =
        memRead s.block.DDRAM ((s.block.AP + j : Nat) : Int)) ∧
      { t.block with DDRAM := s.block.DDRAM, AP := s.block.AP } = s.block

/-! ## The instruction register -/

/-- R130: READ_BUSY returns a fixed 0 whatever the data byte and the state are, and changes nothing; it never fails. -/
def Obligations.ReadBusyReturnsZero : Prop :=
  (∀ t : Transaction, t.pack &&& 0x300 = 0x100 → decode t = .readBusy) ∧
  ∀ s : State, exec .readBusy s = .next { s with outputs := .response (.data 0x00) :: s.outputs }

/-- R133, R101: SET_DDRAM_ADDR sets the pointer to its seven-bit field modulo 80 and touches nothing else. -/
def Obligations.SetDdramAddrSetsThePointer : Prop :=
  (∀ t : Transaction, t.pack &&& 0x380 = 0x080 → decode t = .setDdramAddr (BitVec.ofNat 7 (t.db.toNat % 128))) ∧
  ∀ (a : BitVec 7) (s : State), exec (.setDdramAddr a) s =
    .next { s with block := { s.block with AP := a.toNat % 80 }, outputs := .response .none :: s.outputs }

/-- SET_CGRAM_ADDR records its six-bit field and touches nothing else (42_instruction_register.md; the spec's decision D13,
log 16). -/
def Obligations.SetCgramAddrRecordsOnly : Prop :=
  (∀ t : Transaction, t.pack &&& 0x3C0 = 0x040 → decode t = .setCgramAddr (BitVec.ofNat 6 (t.db.toNat % 64))) ∧
  ∀ (a : BitVec 6) (s : State), exec (.setCgramAddr a) s =
    .next { s with block := { s.block with CGA := a }, outputs := .response .none :: s.outputs }

/-- FUNCTION_SET stores DL, N and F from bits 4, 3 and 2, and nothing else (42_instruction_register.md). That no projection and
no cursor position depends on N and F is the spec's decision D14 (log 17); of DL the source says it itself. -/
def Obligations.FunctionSetStoresOnly : Prop :=
  (∀ t : Transaction, t.pack &&& 0x3E0 = 0x020 →
    decode t = .functionSet (t.db.toNat.testBit 4) (t.db.toNat.testBit 3) (t.db.toNat.testBit 2)) ∧
  ∀ (dl n f : Bool) (s : State), ∃ t : State, exec (.functionSet dl n f) s = .next t ∧
    t = { s with block := { s.block with DL := dl, N := n, F := f }, outputs := .response .none :: s.outputs } ∧
    (∀ (cfg : ProjectorConfig) (lines segments : Nat),
      t.block.project cfg lines segments = s.block.project cfg lines segments) ∧
    (∀ lines : Nat, t.block.cursorPosition lines = s.block.cursorPosition lines)

/-- R137, R103, R104: CURSOR_CONTROL with SC = 1 moves all four entries by -1 (RL = 1) or +1 (RL = 0) modulo 80 and leaves
the pointer; with SC = 0 it moves the pointer by +1 (RL = 1) or -1 (RL = 0) and leaves the table; it ignores ID and SH and
touches nothing else. -/
def Obligations.CursorControlMovesTableOrPointer : Prop :=
  (∀ t : Transaction, t.pack &&& 0x3F0 = 0x010 →
    decode t = .cursorControl (t.db.toNat.testBit 3) (t.db.toNat.testBit 2)) ∧
  (∀ (rl : Bool) (s : State), exec (.cursorControl true rl) s =
    .next { s with
      block := { s.block with
        RWT := { r0 := (s.block.RWT.r0 + if rl then 79 else 1) % 80
                 r1 := (s.block.RWT.r1 + if rl then 79 else 1) % 80
                 r2 := (s.block.RWT.r2 + if rl then 79 else 1) % 80
                 r3 := (s.block.RWT.r3 + if rl then 79 else 1) % 80 } }
      outputs := .response .none :: s.outputs }) ∧
  (∀ (rl : Bool) (s : State), exec (.cursorControl false rl) s =
    .next { s with
      block := { s.block with AP := (s.block.AP + if rl then 1 else 79) % 80 }
      outputs := .response .none :: s.outputs })

/-- A shift and the opposite shift cancel, for the table and for the pointer (from the rule of `shift`); the premise is the
invariant that every reached state has its addresses in range. -/
def Obligations.OppositeShiftsCancel : Prop :=
  ∀ (sc rl : Bool) (s : State), s.block.inRange → ∃ t u : State,
    exec (.cursorControl sc rl) s = .next t ∧ exec (.cursorControl sc (!rl)) t = .next u ∧ u.block = s.block

/-- DISPLAY_CONTROL sets D, C and B from bits 2, 1 and 0, and the blink phase CV to the new B (42_instruction_register.md;
CV is the spec's decision D6, log 10); nothing else changes. -/
def Obligations.DisplayControlSetsFourFlags : Prop :=
  (∀ t : Transaction, t.pack &&& 0x3F8 = 0x008 →
    decode t = .displayControl (t.db.toNat.testBit 2) (t.db.toNat.testBit 1) (t.db.toNat.testBit 0)) ∧
  ∀ (d c b : Bool) (s : State), exec (.displayControl d c b) s =
    .next { s with block := { s.block with D := d, C := c, B := b, CV := b }, outputs := .response .none :: s.outputs }

/-- R139: ENTRY_MODE_SET sets ID and SH from bits 1 and 0; the pointer and the table do not move, and every other instruction
keeps both flags. -/
def Obligations.EntryModeSetPersists : Prop :=
  (∀ t : Transaction, t.pack &&& 0x3FC = 0x004 →
    decode t = .entryModeSet (t.db.toNat.testBit 1) (t.db.toNat.testBit 0)) ∧
  (∀ (inc sh : Bool) (s : State), exec (.entryModeSet inc sh) s =
    .next { s with block := { s.block with ID := inc, SH := sh }, outputs := .response .none :: s.outputs }) ∧
  (∀ (i : Instr) (s t : State), (∀ inc sh, i ≠ .entryModeSet inc sh) → exec i s = .next t →
    t.block.ID = s.block.ID ∧ t.block.SH = s.block.SH)

/-- R140: RETURN_HOME sets the pointer to 0 and the table to its canonical value; DDRAM and all flags are unchanged. -/
def Obligations.ReturnHomeRestoresPointerAndTable : Prop :=
  (∀ t : Transaction, t.pack &&& 0x3FE = 0x002 → decode t = .returnHome) ∧
  ∀ s : State, exec .returnHome s =
    .next { s with
      block := { s.block with AP := 0, RWT := { r0 := 0, r1 := 40, r2 := 20, r3 := 64 } }
      outputs := .response .none :: s.outputs }

/-- CLEAR fills DDRAM with 0x20 and goes home, and keeps every flag and CGA (42_instruction_register.md; that it homes the
pointer is the spec's decision D5, log 9). -/
def Obligations.ClearFillsAndGoesHome : Prop :=
  (∀ t : Transaction, t.pack &&& 0x3FF = 0x001 → decode t = .clear) ∧
  ∀ s : State, ∃ t : State, exec .clear s = .next t ∧
    (∀ x : Int, memRead t.block.DDRAM x = 0x20) ∧
    t.block.AP = 0 ∧ t.block.RWT = { r0 := 0, r1 := 40, r2 := 20, r3 := 64 } ∧
    { t.block with DDRAM := s.block.DDRAM, AP := s.block.AP, RWT := s.block.RWT } = s.block ∧
    t.events = s.events ∧ t.outputs = .response .none :: s.outputs

/-- R52: `MemClear` sets all 80 cells to 0x20, whatever they held, and CLEAR performs it. -/
def Obligations.ClearFillsEveryCell : Prop :=
  (∀ a, a < 80 → memClear.read a = 0x20) ∧
  ∀ (s : State) (a : Nat), a < 80 → ∃ t : State, exec .clear s = .next t ∧ t.block.DDRAM.read a = 0x20

/-- R142: the zero byte raises IllegalInstruction, always: the ILLEGAL response, and nothing in the block changes; the instance
remains usable, so the next event does what it would have done. -/
def Obligations.IllegalChangesNothing : Prop :=
  (∀ t : Transaction, t.pack &&& 0x3FF = 0x000 → decode t = .illegal) ∧
  (∀ s : State, exec .illegal s = .next { s with outputs := .response .illegal :: s.outputs }) ∧
  (∀ (s u : State) (rest : List Event), s.events = .exec ⟨false, false, 0x00⟩ :: rest →
    step { s with events := rest } = .next u →
    ∃ t w : State, step s = .next t ∧ step t = .next w ∧ w.block = u.block ∧ w.events = u.events)

/-- Which instruction-register writes move the pointer, and that each answers NONE but ILLEGAL (42_instruction_register.md, the
derived rule on AP). -/
def Obligations.InstructionWritesThatMoveThePointer : Prop :=
  ∀ (tr : Transaction) (s t : State), tr.rs = false → tr.rw = false → exec (decode tr) s = .next t →
    ((∃ a, decode tr = .setDdramAddr a) ∨ (∃ rl, decode tr = .cursorControl false rl) ∨ decode tr = .returnHome ∨
      decode tr = .clear ∨ t.block.AP = s.block.AP) ∧
    (decode tr ≠ .illegal → t.outputs = .response .none :: s.outputs)

/-! ## Rules of the whole machine -/

/-- R123: DDRAM changes only through WRITE_DATA and CLEAR; READ_DATA and every other instruction leave it unchanged. Among the
other events only reset (log 22) writes it. -/
def Obligations.DdramChangesOnlyByWriteAndClear : Prop :=
  (∀ (i : Instr) (s t : State), exec i s = .next t → (∀ v, i ≠ .writeData v) → i ≠ .clear →
    t.block.DDRAM = s.block.DDRAM) ∧
  (∀ (s t : State) (e : Event) (rest : List Event), s.events = e :: rest → step s = .next t →
    (∀ tr, e ≠ .exec tr) → (∀ flags, e ≠ .powerOn flags) → t.block.DDRAM = s.block.DDRAM)

/-- R27: ID gives the direction of the auto-advance of both data transactions, SH whether they move the table too, and both
flags persist through every event but ENTRY_MODE_SET (and the reset event, log 22). -/
def Obligations.EntryModeGovernsDataTransactions : Prop :=
  (∀ (i : Instr) (s : State), (i = .readData ∨ ∃ v, i = .writeData v) → ∃ t : State, exec i s = .next t ∧
    (s.block.ID = true → t.block.AP = (s.block.AP + 1) % 80) ∧
    (s.block.ID = false → t.block.AP = (s.block.AP + 79) % 80) ∧
    (s.block.SH = false → t.block.RWT = s.block.RWT) ∧
    (s.block.SH = true → ∀ x, t.block.RWT.entry x = (s.block.RWT.entry x + if s.block.ID then 1 else 79) % 80)) ∧
  (∀ (s t : State) (e : Event) (rest : List Event), s.events = e :: rest → step s = .next t →
    (∀ tr inc sh, e = .exec tr → decode tr ≠ .entryModeSet inc sh) → (∀ flags, e ≠ .powerOn flags) →
    t.block.ID = s.block.ID ∧ t.block.SH = s.block.SH)

/-- Who writes each display flag, function-set flag and CGA (10_state.md sections 5 and 6; decisions D6, D13 and D14, log 10,
log 16 and log 17): D, C and B only DISPLAY_CONTROL, CV only DISPLAY_CONTROL and TICK, DL, N and F only FUNCTION_SET, CGA
only SET_CGRAM_ADDR; the reset event (log 22) is left aside. -/
def Obligations.EachFlagHasItsWriters : Prop :=
  ∀ (s t : State) (e : Event) (rest : List Event), s.events = e :: rest → step s = .next t →
    (∀ flags, e ≠ .powerOn flags) →
    ((∃ tr d c b, e = .exec tr ∧ decode tr = .displayControl d c b) ∨
      (t.block.D = s.block.D ∧ t.block.C = s.block.C ∧ t.block.B = s.block.B ∧ (e = .tick ∨ t.block.CV = s.block.CV))) ∧
    ((∃ tr dl n f, e = .exec tr ∧ decode tr = .functionSet dl n f) ∨
      (t.block.DL = s.block.DL ∧ t.block.N = s.block.N ∧ t.block.F = s.block.F)) ∧
    ((∃ tr a, e = .exec tr ∧ decode tr = .setCgramAddr a) ∨ t.block.CGA = s.block.CGA)

/-- When the Row-Window Table moves (10_state.md section 3): only at a display shift, at a data transaction with SH = 1, and
back to its canonical value at RETURN_HOME and CLEAR (decision D5, log 9). -/
def Obligations.TableMovesOnlyWithShiftsAndHome : Prop :=
  ∀ (i : Instr) (s t : State), exec i s = .next t →
    (∃ rl, i = .cursorControl true rl) ∨
    (s.block.SH = true ∧ (i = .readData ∨ ∃ v, i = .writeData v)) ∨
    ((i = .returnHome ∨ i = .clear) ∧ t.block.RWT = { r0 := 0, r1 := 40, r2 := 20, r3 := 64 }) ∨
    t.block.RWT = s.block.RWT

/-- No rule reads DL, N, F or CGA (10_state.md section 6; decisions D13 and D14, log 16 and log 17): two machines that differ
in them alone, given the same events, run alike for as long as one pleases: the same fields otherwise, and the same new
outputs. -/
def Obligations.InertFieldsAreNeverRead : Prop :=
  ∀ (n : Nat) (s s' t : State), s.block.withoutInert = s'.block.withoutInert → s.events = s'.events →
    Host.Core.run core n s = .next t →
    ∃ (t' : State) (new : List Output), Host.Core.run core n s' = .next t' ∧
      t.block.withoutInert = t'.block.withoutInert ∧ t.events = t'.events ∧
      t.outputs = new ++ s.outputs ∧ t'.outputs = new ++ s'.outputs

/-- The invariant: addresses in range, DDRAM canonical, and no visible phase while blink is disabled (10_state.md sections 2, 3
and 5). Every step that answers keeps it. The canonical form of DDRAM is the model's (log 8). That B = 0 implies CV = 0 rests on
the spec's decisions D6 for DISPLAY_CONTROL (log 10), D7 for TICK (log 11) and, at the reset event, D4 (log 4 and log 22). -/
def Obligations.StepKeepsTheInvariant : Prop :=
  ∀ s t : State, s.block.inv → step s = .next t → t.block.inv

/-- The invariant holds right after reset, whatever the flags and the events to come (10_state.md section 8). CV = 0 at power-on
is the spec's decision D4 and AP = 0 its decision D5 (log 4), and the canonical form of DDRAM is the model's (log 8). -/
def Obligations.ResetMeetsTheInvariant : Prop :=
  (∀ (flags : ResetFlags) (events : List Event), (State.powerOn flags events).block.inv) ∧ State.reset.block.inv

/-- R23: the pointer is always taken modulo 80 after every mutation, so it is in [0,79] in every state the block reaches; the
table's entries likewise. -/
def Obligations.PointerStaysInRange : Prop :=
  (∀ s t : State, step s = .next t → t.block.AP = s.block.AP ∨ t.block.AP < 80) ∧
  (∀ s t : State, step s = .next t → ∀ x, t.block.RWT.entry x = s.block.RWT.entry x ∨ t.block.RWT.entry x < 80) ∧
  (∀ t : State, Reached t → t.block.inRange)

/-- What reset leaves, for every `RESET_FLAGS` (10_state.md section 8; AP = 0, CV = 0 and CGA = 0 are the spec's decisions D4
and D5, log 4): at power-on and at the reset event alike. -/
def Obligations.ResetValues : Prop :=
  ∀ (flags : ResetFlags) (s : State) (rest : List Event), s.events = .powerOn flags :: rest →
    ∃ t : State, step s = .next t ∧ t.block = (State.powerOn flags rest).block ∧ t.events = rest ∧
      (∀ x : Int, memRead t.block.DDRAM x = 0x20) ∧
      t.block.AP = 0 ∧ t.block.RWT = { r0 := 0, r1 := 40, r2 := 20, r3 := 64 } ∧
      t.block.CV = false ∧ t.block.CGA = 0 ∧
      t.block.ID = flags.ID ∧ t.block.SH = flags.SH ∧ t.block.D = flags.D ∧ t.block.C = flags.C ∧
      t.block.B = flags.B ∧ t.block.DL = flags.DL ∧ t.block.N = flags.N ∧ t.block.F = flags.F

/-- The boot sequence (70_reset_and_hazards.md section 2; decision D21): FUNCTION_SET, CLEAR, ENTRY_MODE_SET and
DISPLAY_CONTROL in any order leave the same block, whatever came before but for CGA, which none of them writes. -/
def Obligations.BootSequenceInAnyOrder : Prop :=
  ∀ (dl n f inc sh d c b : Bool) (boot : List Instr) (s : State) (rest : List Event),
    boot.Perm [.functionSet dl n f, .clear, .entryModeSet inc sh, .displayControl d c b] →
    s.events = (boot.map fun i => Event.exec (encode i)) ++ rest →
    ∃ t : State, Host.Core.run core 4 s = .next t ∧ t.events = rest ∧
      t.block = { DDRAM := [], AP := 0, RWT := { r0 := 0, r1 := 40, r2 := 20, r3 := 64 }, ID := inc, SH := sh,
                  D := d, C := c, B := b, CV := b, DL := dl, N := n, F := f, CGA := s.block.CGA }

/-! ## The projector, the cursor and the blink phase -/

/-- R56: codes 0x20 to 0x7F show the character ROM's glyph, every other code is blank, and the space is blank. -/
def Obligations.CharacterRomLookup : Prop :=
  ∀ (cfg : ProjectorConfig) (code : Byte),
    (cfg.cgrom 0x20 = blankGlyph → 0x20 ≤ code.toNat → code.toNat ≤ 0x7F → glyphOf cfg code = cfg.cgrom code) ∧
    (code.toNat < 0x20 → glyphOf cfg code = blankGlyph) ∧
    (0x7F < code.toNat → glyphOf cfg code = blankGlyph) ∧
    (code = 0x20 → glyphOf cfg code = blankGlyph)

/-- PROJECT (43_projector.md, the projection rule): L rows of S glyphs; with the display on, every cell but the cursor's shows
the glyph of the DDRAM cell that the row's entry and the column address, modulo 80. Ranges are decision D11 (log 14). -/
def Obligations.ProjectionShowsTheWindow : Prop :=
  ∀ (cfg : ProjectorConfig) (k : Block) (lines segments : Nat), 1 ≤ lines → lines ≤ 4 → 1 ≤ segments → segments ≤ 80 →
    (k.project cfg lines segments).length = lines ∧
    (∀ row, row ∈ k.project cfg lines segments → row.length = segments) ∧
    (∀ x y : Nat, x < lines → y < segments → k.D = true → k.cursorPosition lines ≠ (x, (y : Int)) →
      ((k.project cfg lines segments)[x]?.bind fun row => row[y]?) =
        some (glyphOf cfg (k.DDRAM.read ((k.RWT.entry x + y) % 80))))

/-- With the display off every cell is blank, the cursor's too (43_projector.md; the spec's decision D8, log 12). -/
def Obligations.DisplayOffIsBlank : Prop :=
  ∀ (cfg : ProjectorConfig) (k : Block) (lines segments : Nat), k.D = false →
    k.project cfg lines segments = List.replicate lines (List.replicate segments blankGlyph)

/-- The cursor cell with the display on (43_projector.md; decisions D8 and D9, log 12): FULL in the visible phase; blank in the
invisible phase of a blinking cursor when the blink-off glyph is BLANK; else the character; with row 7 lit when C = 1. A
column below 0 or past the grid marks no cell. -/
def Obligations.CursorCellOverlay : Prop :=
  ∀ (cfg : ProjectorConfig) (k : Block) (lines segments r : Nat) (c : Int), 1 ≤ lines → lines ≤ 4 → k.D = true →
    k.cursorPosition lines = (r, c) →
    (∀ y : Nat, c = (y : Int) → y < segments →
      ∃ g : Glyph,
        ((k.project cfg lines segments)[r]?.bind fun row => row[y]?) = some (if k.C then { g with row7 := 0x1F } else g) ∧
        (k.CV = true → g = fullGlyph) ∧
        (k.CV = false → k.B = true → cfg.blinkOff = .blank → g = blankGlyph) ∧
        (k.CV = false → (k.B = false ∨ cfg.blinkOff = .character) →
          g = glyphOf cfg (k.DDRAM.read ((k.RWT.entry r + y) % 80)))) ∧
    ((c < 0 ∨ (segments : Int) ≤ c) → ∀ x y : Nat, x < lines → y < segments →
      ((k.project cfg lines segments)[x]?.bind fun row => row[y]?) =
        some (glyphOf cfg (k.DDRAM.read ((k.RWT.entry x + y) % 80))))

/-- After CLEAR every projected cell is blank but the cursor cell (0, 0), which shows FULL when CV = 1 and the underline when
C = 1 (43_projector.md, the derived rule on CLEAR; decisions D5 and D8, log 9 and log 12). -/
def Obligations.GridAfterClear : Prop :=
  ∀ (cfg : ProjectorConfig) (s : State) (lines segments : Nat), 1 ≤ lines → lines ≤ 4 → 1 ≤ segments → segments ≤ 80 →
    s.block.D = true → ∃ t : State, exec .clear s = .next t ∧
      t.block.cursorPosition lines = (0, 0) ∧
      (∀ x y : Nat, x < lines → y < segments → (x, y) ≠ (0, 0) →
        ((t.block.project cfg lines segments)[x]?.bind fun row => row[y]?) = some blankGlyph) ∧
      ((t.block.project cfg lines segments)[0]?.bind fun row => row[0]?) =
        some (if s.block.CV then fullGlyph
          else if s.block.C then { blankGlyph with row7 := 0x1F } else blankGlyph)

/-- The cursor position (40_addressing_engine.md; the spec's decision D10, log 13): the last of the first L entries that is not
above the pointer gives the row, with the signed column `AP - entry`; with none, row 0 and `AP - RWT[0]`. With addresses in
range the column is in [-79, 79]. -/
def Obligations.CursorPositionIsLastMatch : Prop :=
  ∀ (k : Block) (lines : Nat), 1 ≤ lines → lines ≤ 4 →
    ((∀ i, i < lines → k.AP < k.RWT.entry i) → k.cursorPosition lines = (0, (k.AP : Int) - k.RWT.entry 0)) ∧
    (∀ i, i < lines → k.RWT.entry i ≤ k.AP → (∀ j, i < j → j < lines → k.AP < k.RWT.entry j) →
      k.cursorPosition lines = (i, (k.AP : Int) - k.RWT.entry i)) ∧
    (k.cursorPosition lines).1 < lines ∧
    (lines = 1 → k.cursorPosition lines = (0, (k.AP : Int) - k.RWT.entry 0)) ∧
    (k.inRange → -79 ≤ (k.cursorPosition lines).2 ∧ (k.cursorPosition lines).2 ≤ 79)

/-- The boundary behaviour is reproduced, not fixed (40_addressing_engine.md, the rule of boundary behaviour; the answer without
a match is the spec's decision D10, log 13): after a display shift right from home every line count gives (0, -79), and a
column can exceed the visible width. -/
def Obligations.BoundaryPositionsAreKept : Prop :=
  (∀ s : State, s.block.AP = 0 → s.block.RWT = { r0 := 0, r1 := 40, r2 := 20, r3 := 64 } →
    ∃ t : State, exec (.cursorControl true true) s = .next t ∧
      t.block.RWT = { r0 := 79, r1 := 39, r2 := 19, r3 := 63 } ∧
      ∀ lines, 1 ≤ lines → lines ≤ 4 → t.block.cursorPosition lines = (0, -79)) ∧
  (∀ k : Block, k.AP = 39 → k.RWT = { r0 := 0, r1 := 40, r2 := 20, r3 := 64 } → k.cursorPosition 2 = (0, 39))

/-- R167, R112: the three accessors: CV, C, and the cursor position for the caller's line count; all are pure reads. -/
def Obligations.AccessorsArePureReads : Prop :=
  ∀ (s : State) (rest : List Event),
    (s.events = .cursorVisible :: rest →
      step s = .next { s with events := rest, outputs := .cursorVisible s.block.CV :: s.outputs }) ∧
    (s.events = .cursorActive :: rest →
      step s = .next { s with events := rest, outputs := .cursorActive s.block.C :: s.outputs }) ∧
    (∀ lines, 1 ≤ lines → lines ≤ 4 → s.events = .cursorPosition lines :: rest →
      step s = .next { s with
        events := rest
        outputs := .cursorPosition (s.block.cursorPosition lines).1 (s.block.cursorPosition lines).2 :: s.outputs })

/-- The PROJECT event shows the grid and changes nothing, and is refused outside 1..4 lines and 1..80 segments, as the accessor
`cursor_position` is outside 1..4 lines (43_projector.md; the spec's decision D11, log 14). -/
def Obligations.ProjectEventShowsTheGrid : Prop :=
  ∀ (s : State) (rest : List Event) (lines segments : Nat),
    (s.events = .project lines segments :: rest → 1 ≤ lines → lines ≤ 4 → 1 ≤ segments → segments ≤ 80 →
      step s = .next { s with
        events := rest
        outputs := .grid (s.block.project Config.projector lines segments) :: s.outputs }) ∧
    (s.events = .project lines segments :: rest →
      (lines = 0 ∨ 4 < lines ∨ segments = 0 ∨ 80 < segments) →
      step s = .refused (.projectionOutOfRange lines segments)) ∧
    (s.events = .cursorPosition lines :: rest → (lines = 0 ∨ 4 < lines) →
      step s = .refused (.cursorPositionOutOfRange lines))

/-- The resize path leaves the state unchanged: it uses up its event and nothing more; a PROJECT after it may pass any line and
segment count in range (43_projector.md, geometry changes; the spec's decision D11, log 14). That a resize with a geometry out
of those ranges is accepted too is the model's choice (log 23, DESIGN CHOICE). -/
def Obligations.ResizeLeavesTheStateUnchanged : Prop :=
  ∀ (s : State) (rest : List Event) (lines segments : Nat), s.events = .updateDisplay lines segments :: rest →
    step s = .next { s with events := rest } ∧
    (∀ (l n : Nat) (later : List Event), rest = .project l n :: later → 1 ≤ l → l ≤ 4 → 1 ≤ n → n ≤ 80 →
      Host.Core.run core 2 s =
        .next { s with events := later, outputs := .grid (s.block.project Config.projector l n) :: s.outputs })

/-- TICK, any number of times (43_projector.md; the spec's decision D7, log 11): with blink enabled each one flips the phase,
with blink disabled the first clears it; nothing else changes and nothing is answered. -/
def Obligations.TicksFlipTheBlinkPhase : Prop :=
  ∀ (n : Nat) (s : State) (rest : List Event), s.events = List.replicate n .tick ++ rest →
    ∃ t : State, Host.Core.run core n s = .next t ∧ t.events = rest ∧ t.outputs = s.outputs ∧
      (s.block.B = true → t.block.CV = (if n % 2 = 0 then s.block.CV else !s.block.CV)) ∧
      (s.block.B = false → t.block.CV = (if n = 0 then s.block.CV else false)) ∧
      { t.block with CV := s.block.CV } = s.block
end

