-- ==== Sys2Proof/Laws/State.lean ====
section
/-! SUPPORT. One lemma per field per update of the block and of the state, each true by rfl. -/

namespace Sys2Proof.Machine

@[simp] theorem Block.setDDRAM_DDRAM (k : Block) (m : Memory) : (k.setDDRAM m).DDRAM = m := rfl
@[simp] theorem Block.setDDRAM_AP (k : Block) (m : Memory) : (k.setDDRAM m).AP = k.AP := rfl
@[simp] theorem Block.setDDRAM_RWT (k : Block) (m : Memory) : (k.setDDRAM m).RWT = k.RWT := rfl
@[simp] theorem Block.setDDRAM_ID (k : Block) (m : Memory) : (k.setDDRAM m).ID = k.ID := rfl
@[simp] theorem Block.setDDRAM_SH (k : Block) (m : Memory) : (k.setDDRAM m).SH = k.SH := rfl
@[simp] theorem Block.setDDRAM_D (k : Block) (m : Memory) : (k.setDDRAM m).D = k.D := rfl
@[simp] theorem Block.setDDRAM_C (k : Block) (m : Memory) : (k.setDDRAM m).C = k.C := rfl
@[simp] theorem Block.setDDRAM_B (k : Block) (m : Memory) : (k.setDDRAM m).B = k.B := rfl
@[simp] theorem Block.setDDRAM_CV (k : Block) (m : Memory) : (k.setDDRAM m).CV = k.CV := rfl
@[simp] theorem Block.setDDRAM_DL (k : Block) (m : Memory) : (k.setDDRAM m).DL = k.DL := rfl
@[simp] theorem Block.setDDRAM_N (k : Block) (m : Memory) : (k.setDDRAM m).N = k.N := rfl
@[simp] theorem Block.setDDRAM_F (k : Block) (m : Memory) : (k.setDDRAM m).F = k.F := rfl
@[simp] theorem Block.setDDRAM_CGA (k : Block) (m : Memory) : (k.setDDRAM m).CGA = k.CGA := rfl

@[simp] theorem Block.setAP_DDRAM (k : Block) (a : Nat) : (k.setAP a).DDRAM = k.DDRAM := rfl
@[simp] theorem Block.setAP_AP (k : Block) (a : Nat) : (k.setAP a).AP = a := rfl
@[simp] theorem Block.setAP_RWT (k : Block) (a : Nat) : (k.setAP a).RWT = k.RWT := rfl
@[simp] theorem Block.setAP_ID (k : Block) (a : Nat) : (k.setAP a).ID = k.ID := rfl
@[simp] theorem Block.setAP_SH (k : Block) (a : Nat) : (k.setAP a).SH = k.SH := rfl
@[simp] theorem Block.setAP_D (k : Block) (a : Nat) : (k.setAP a).D = k.D := rfl
@[simp] theorem Block.setAP_C (k : Block) (a : Nat) : (k.setAP a).C = k.C := rfl
@[simp] theorem Block.setAP_B (k : Block) (a : Nat) : (k.setAP a).B = k.B := rfl
@[simp] theorem Block.setAP_CV (k : Block) (a : Nat) : (k.setAP a).CV = k.CV := rfl
@[simp] theorem Block.setAP_DL (k : Block) (a : Nat) : (k.setAP a).DL = k.DL := rfl
@[simp] theorem Block.setAP_N (k : Block) (a : Nat) : (k.setAP a).N = k.N := rfl
@[simp] theorem Block.setAP_F (k : Block) (a : Nat) : (k.setAP a).F = k.F := rfl
@[simp] theorem Block.setAP_CGA (k : Block) (a : Nat) : (k.setAP a).CGA = k.CGA := rfl

@[simp] theorem Block.setRWT_DDRAM (k : Block) (t : Rwt) : (k.setRWT t).DDRAM = k.DDRAM := rfl
@[simp] theorem Block.setRWT_AP (k : Block) (t : Rwt) : (k.setRWT t).AP = k.AP := rfl
@[simp] theorem Block.setRWT_RWT (k : Block) (t : Rwt) : (k.setRWT t).RWT = t := rfl
@[simp] theorem Block.setRWT_ID (k : Block) (t : Rwt) : (k.setRWT t).ID = k.ID := rfl
@[simp] theorem Block.setRWT_SH (k : Block) (t : Rwt) : (k.setRWT t).SH = k.SH := rfl
@[simp] theorem Block.setRWT_D (k : Block) (t : Rwt) : (k.setRWT t).D = k.D := rfl
@[simp] theorem Block.setRWT_C (k : Block) (t : Rwt) : (k.setRWT t).C = k.C := rfl
@[simp] theorem Block.setRWT_B (k : Block) (t : Rwt) : (k.setRWT t).B = k.B := rfl
@[simp] theorem Block.setRWT_CV (k : Block) (t : Rwt) : (k.setRWT t).CV = k.CV := rfl
@[simp] theorem Block.setRWT_DL (k : Block) (t : Rwt) : (k.setRWT t).DL = k.DL := rfl
@[simp] theorem Block.setRWT_N (k : Block) (t : Rwt) : (k.setRWT t).N = k.N := rfl
@[simp] theorem Block.setRWT_F (k : Block) (t : Rwt) : (k.setRWT t).F = k.F := rfl
@[simp] theorem Block.setRWT_CGA (k : Block) (t : Rwt) : (k.setRWT t).CGA = k.CGA := rfl

@[simp] theorem Block.setCGA_DDRAM (k : Block) (a : BitVec 6) : (k.setCGA a).DDRAM = k.DDRAM := rfl
@[simp] theorem Block.setCGA_AP (k : Block) (a : BitVec 6) : (k.setCGA a).AP = k.AP := rfl
@[simp] theorem Block.setCGA_RWT (k : Block) (a : BitVec 6) : (k.setCGA a).RWT = k.RWT := rfl
@[simp] theorem Block.setCGA_ID (k : Block) (a : BitVec 6) : (k.setCGA a).ID = k.ID := rfl
@[simp] theorem Block.setCGA_SH (k : Block) (a : BitVec 6) : (k.setCGA a).SH = k.SH := rfl
@[simp] theorem Block.setCGA_D (k : Block) (a : BitVec 6) : (k.setCGA a).D = k.D := rfl
@[simp] theorem Block.setCGA_C (k : Block) (a : BitVec 6) : (k.setCGA a).C = k.C := rfl
@[simp] theorem Block.setCGA_B (k : Block) (a : BitVec 6) : (k.setCGA a).B = k.B := rfl
@[simp] theorem Block.setCGA_CV (k : Block) (a : BitVec 6) : (k.setCGA a).CV = k.CV := rfl
@[simp] theorem Block.setCGA_DL (k : Block) (a : BitVec 6) : (k.setCGA a).DL = k.DL := rfl
@[simp] theorem Block.setCGA_N (k : Block) (a : BitVec 6) : (k.setCGA a).N = k.N := rfl
@[simp] theorem Block.setCGA_F (k : Block) (a : BitVec 6) : (k.setCGA a).F = k.F := rfl
@[simp] theorem Block.setCGA_CGA (k : Block) (a : BitVec 6) : (k.setCGA a).CGA = a := rfl

@[simp] theorem Block.setEntryMode_DDRAM (k : Block) (inc sh : Bool) : (k.setEntryMode inc sh).DDRAM = k.DDRAM := rfl
@[simp] theorem Block.setEntryMode_AP (k : Block) (inc sh : Bool) : (k.setEntryMode inc sh).AP = k.AP := rfl
@[simp] theorem Block.setEntryMode_RWT (k : Block) (inc sh : Bool) : (k.setEntryMode inc sh).RWT = k.RWT := rfl
@[simp] theorem Block.setEntryMode_ID (k : Block) (inc sh : Bool) : (k.setEntryMode inc sh).ID = inc := rfl
@[simp] theorem Block.setEntryMode_SH (k : Block) (inc sh : Bool) : (k.setEntryMode inc sh).SH = sh := rfl
@[simp] theorem Block.setEntryMode_D (k : Block) (inc sh : Bool) : (k.setEntryMode inc sh).D = k.D := rfl
@[simp] theorem Block.setEntryMode_C (k : Block) (inc sh : Bool) : (k.setEntryMode inc sh).C = k.C := rfl
@[simp] theorem Block.setEntryMode_B (k : Block) (inc sh : Bool) : (k.setEntryMode inc sh).B = k.B := rfl
@[simp] theorem Block.setEntryMode_CV (k : Block) (inc sh : Bool) : (k.setEntryMode inc sh).CV = k.CV := rfl
@[simp] theorem Block.setEntryMode_DL (k : Block) (inc sh : Bool) : (k.setEntryMode inc sh).DL = k.DL := rfl
@[simp] theorem Block.setEntryMode_N (k : Block) (inc sh : Bool) : (k.setEntryMode inc sh).N = k.N := rfl
@[simp] theorem Block.setEntryMode_F (k : Block) (inc sh : Bool) : (k.setEntryMode inc sh).F = k.F := rfl
@[simp] theorem Block.setEntryMode_CGA (k : Block) (inc sh : Bool) : (k.setEntryMode inc sh).CGA = k.CGA := rfl

@[simp] theorem Block.setDisplay_DDRAM (k : Block) (d c b : Bool) : (k.setDisplay d c b).DDRAM = k.DDRAM := rfl
@[simp] theorem Block.setDisplay_AP (k : Block) (d c b : Bool) : (k.setDisplay d c b).AP = k.AP := rfl
@[simp] theorem Block.setDisplay_RWT (k : Block) (d c b : Bool) : (k.setDisplay d c b).RWT = k.RWT := rfl
@[simp] theorem Block.setDisplay_ID (k : Block) (d c b : Bool) : (k.setDisplay d c b).ID = k.ID := rfl
@[simp] theorem Block.setDisplay_SH (k : Block) (d c b : Bool) : (k.setDisplay d c b).SH = k.SH := rfl
@[simp] theorem Block.setDisplay_D (k : Block) (d c b : Bool) : (k.setDisplay d c b).D = d := rfl
@[simp] theorem Block.setDisplay_C (k : Block) (d c b : Bool) : (k.setDisplay d c b).C = c := rfl
@[simp] theorem Block.setDisplay_B (k : Block) (d c b : Bool) : (k.setDisplay d c b).B = b := rfl
@[simp] theorem Block.setDisplay_CV (k : Block) (d c b : Bool) : (k.setDisplay d c b).CV = b := rfl
@[simp] theorem Block.setDisplay_DL (k : Block) (d c b : Bool) : (k.setDisplay d c b).DL = k.DL := rfl
@[simp] theorem Block.setDisplay_N (k : Block) (d c b : Bool) : (k.setDisplay d c b).N = k.N := rfl
@[simp] theorem Block.setDisplay_F (k : Block) (d c b : Bool) : (k.setDisplay d c b).F = k.F := rfl
@[simp] theorem Block.setDisplay_CGA (k : Block) (d c b : Bool) : (k.setDisplay d c b).CGA = k.CGA := rfl

@[simp] theorem Block.setFunction_DDRAM (k : Block) (dl n f : Bool) : (k.setFunction dl n f).DDRAM = k.DDRAM := rfl
@[simp] theorem Block.setFunction_AP (k : Block) (dl n f : Bool) : (k.setFunction dl n f).AP = k.AP := rfl
@[simp] theorem Block.setFunction_RWT (k : Block) (dl n f : Bool) : (k.setFunction dl n f).RWT = k.RWT := rfl
@[simp] theorem Block.setFunction_ID (k : Block) (dl n f : Bool) : (k.setFunction dl n f).ID = k.ID := rfl
@[simp] theorem Block.setFunction_SH (k : Block) (dl n f : Bool) : (k.setFunction dl n f).SH = k.SH := rfl
@[simp] theorem Block.setFunction_D (k : Block) (dl n f : Bool) : (k.setFunction dl n f).D = k.D := rfl
@[simp] theorem Block.setFunction_C (k : Block) (dl n f : Bool) : (k.setFunction dl n f).C = k.C := rfl
@[simp] theorem Block.setFunction_B (k : Block) (dl n f : Bool) : (k.setFunction dl n f).B = k.B := rfl
@[simp] theorem Block.setFunction_CV (k : Block) (dl n f : Bool) : (k.setFunction dl n f).CV = k.CV := rfl
@[simp] theorem Block.setFunction_DL (k : Block) (dl n f : Bool) : (k.setFunction dl n f).DL = dl := rfl
@[simp] theorem Block.setFunction_N (k : Block) (dl n f : Bool) : (k.setFunction dl n f).N = n := rfl
@[simp] theorem Block.setFunction_F (k : Block) (dl n f : Bool) : (k.setFunction dl n f).F = f := rfl
@[simp] theorem Block.setFunction_CGA (k : Block) (dl n f : Bool) : (k.setFunction dl n f).CGA = k.CGA := rfl

@[simp] theorem Block.tick_DDRAM (k : Block) : (k.tick).DDRAM = k.DDRAM := rfl
@[simp] theorem Block.tick_AP (k : Block) : (k.tick).AP = k.AP := rfl
@[simp] theorem Block.tick_RWT (k : Block) : (k.tick).RWT = k.RWT := rfl
@[simp] theorem Block.tick_ID (k : Block) : (k.tick).ID = k.ID := rfl
@[simp] theorem Block.tick_SH (k : Block) : (k.tick).SH = k.SH := rfl
@[simp] theorem Block.tick_D (k : Block) : (k.tick).D = k.D := rfl
@[simp] theorem Block.tick_C (k : Block) : (k.tick).C = k.C := rfl
@[simp] theorem Block.tick_B (k : Block) : (k.tick).B = k.B := rfl
@[simp] theorem Block.tick_CV (k : Block) : (k.tick).CV = if k.B then !k.CV else false := rfl
@[simp] theorem Block.tick_DL (k : Block) : (k.tick).DL = k.DL := rfl
@[simp] theorem Block.tick_N (k : Block) : (k.tick).N = k.N := rfl
@[simp] theorem Block.tick_F (k : Block) : (k.tick).F = k.F := rfl
@[simp] theorem Block.tick_CGA (k : Block) : (k.tick).CGA = k.CGA := rfl

@[simp] theorem Block.withoutInert_DDRAM (k : Block) : (k.withoutInert).DDRAM = k.DDRAM := rfl
@[simp] theorem Block.withoutInert_AP (k : Block) : (k.withoutInert).AP = k.AP := rfl
@[simp] theorem Block.withoutInert_RWT (k : Block) : (k.withoutInert).RWT = k.RWT := rfl
@[simp] theorem Block.withoutInert_ID (k : Block) : (k.withoutInert).ID = k.ID := rfl
@[simp] theorem Block.withoutInert_SH (k : Block) : (k.withoutInert).SH = k.SH := rfl
@[simp] theorem Block.withoutInert_D (k : Block) : (k.withoutInert).D = k.D := rfl
@[simp] theorem Block.withoutInert_C (k : Block) : (k.withoutInert).C = k.C := rfl
@[simp] theorem Block.withoutInert_B (k : Block) : (k.withoutInert).B = k.B := rfl
@[simp] theorem Block.withoutInert_CV (k : Block) : (k.withoutInert).CV = k.CV := rfl
@[simp] theorem Block.withoutInert_DL (k : Block) : (k.withoutInert).DL = false := rfl
@[simp] theorem Block.withoutInert_N (k : Block) : (k.withoutInert).N = false := rfl
@[simp] theorem Block.withoutInert_F (k : Block) : (k.withoutInert).F = false := rfl
@[simp] theorem Block.withoutInert_CGA (k : Block) : (k.withoutInert).CGA = 0 := rfl

@[simp] theorem State.observe_block (s : State) (o : Output) : (s.observe o).block = s.block := rfl
@[simp] theorem State.observe_events (s : State) (o : Output) : (s.observe o).events = s.events := rfl
@[simp] theorem State.observe_outputs (s : State) (o : Output) : (s.observe o).outputs = o :: s.outputs := rfl

@[simp] theorem State.complete_block (s : State) (k : Block) (r : Response) : (s.complete k r).block = k := rfl
@[simp] theorem State.complete_events (s : State) (k : Block) (r : Response) : (s.complete k r).events = s.events := rfl
@[simp] theorem State.complete_outputs (s : State) (k : Block) (r : Response) : (s.complete k r).outputs = .response r :: s.outputs := rfl

@[simp] theorem State.raiseIllegalInstruction_block (s : State) : (s.raiseIllegalInstruction).block = s.block := rfl
@[simp] theorem State.raiseIllegalInstruction_events (s : State) : (s.raiseIllegalInstruction).events = s.events := rfl
@[simp] theorem State.raiseIllegalInstruction_outputs (s : State) : (s.raiseIllegalInstruction).outputs = .response .illegal :: s.outputs := rfl

@[simp] theorem Rwt.map_r0 (f : Nat → Nat) (t : Rwt) : (t.map f).r0 = f t.r0 := rfl
@[simp] theorem Rwt.map_r1 (f : Nat → Nat) (t : Rwt) : (t.map f).r1 = f t.r1 := rfl
@[simp] theorem Rwt.map_r2 (f : Nat → Nat) (t : Rwt) : (t.map f).r2 = f t.r2 := rfl
@[simp] theorem Rwt.map_r3 (f : Nat → Nat) (t : Rwt) : (t.map f).r3 = f t.r3 := rfl

@[simp] theorem Rwt.entry_0 (t : Rwt) : t.entry 0 = t.r0 := rfl
@[simp] theorem Rwt.entry_1 (t : Rwt) : t.entry 1 = t.r1 := rfl
@[simp] theorem Rwt.entry_2 (t : Rwt) : t.entry 2 = t.r2 := rfl
@[simp] theorem Rwt.entry_3 (t : Rwt) : t.entry 3 = t.r3 := rfl

end Sys2Proof.Machine
end

