-- ==== Sys2Proof/Laws/Memory.lean ====
section
/-! SUPPORT. The laws of the DDRAM store: what a store, a read and a clear do, and that each keeps the canonical form. -/

namespace Sys2Proof.Machine

theorem Memory.read_erase_same (m : Memory) (x : Nat) : (m.erase x).read x = Config.space := by
  induction m with
  | nil => rfl
  | cons c rest ih =>
    obtain ⟨a, v⟩ := c
    by_cases h : a = x <;> simp [Memory.erase, Memory.read, h, ih]

theorem Memory.read_erase_other (m : Memory) (x y : Nat) (h : x ≠ y) : (m.erase x).read y = m.read y := by
  induction m with
  | nil => rfl
  | cons c rest ih =>
    obtain ⟨a, v⟩ := c
    by_cases hx : a = x
    · simp [Memory.erase, Memory.read, hx, ih, h]
    · simp [Memory.erase, Memory.read, hx, ih]

theorem Memory.read_insert_other (m : Memory) (x y : Nat) (w : Byte) (h : x ≠ y) :
    (m.insert x w).read y = m.read y := by
  induction m with
  | nil => simp [Memory.insert, Memory.read, h]
  | cons c rest ih =>
    obtain ⟨a, v⟩ := c
    by_cases hx : x < a <;> simp [Memory.insert, Memory.read, hx, h, ih]

theorem Memory.read_insert_erase (m : Memory) (x : Nat) (w : Byte) : ((m.erase x).insert x w).read x = w := by
  induction m with
  | nil => simp [Memory.erase, Memory.insert, Memory.read]
  | cons c rest ih =>
    obtain ⟨a, v⟩ := c
    by_cases ha : a = x
    · simpa [Memory.erase, ha] using ih
    · by_cases hx : x < a <;> simp [Memory.erase, Memory.insert, Memory.read, ha, hx, ih]

theorem Memory.read_store_same (m : Memory) (x : Nat) (w : Byte) : (m.store x w).read x = w := by
  by_cases h : w = Config.space
  · simp [Memory.store, h, Memory.read_erase_same]
  · simp only [Memory.store, h, if_false]
    exact Memory.read_insert_erase m x w

theorem Memory.read_store_other (m : Memory) (x y : Nat) (w : Byte) (h : x ≠ y) :
    (m.store x w).read y = m.read y := by
  by_cases hw : w = Config.space
  · simp [Memory.store, hw, Memory.read_erase_other m x y h]
  · simp only [Memory.store, hw, if_false]
    rw [Memory.read_insert_other _ _ _ _ h, Memory.read_erase_other m x y h]

theorem Memory.canonicalFrom_mono (m : Memory) (lo hi : Nat) (h : lo ≤ hi) (hm : m.canonicalFrom hi = true) :
    m.canonicalFrom lo = true := by
  cases m with
  | nil => rfl
  | cons c rest =>
    obtain ⟨a, v⟩ := c
    simp only [Memory.canonicalFrom, Bool.and_eq_true, decide_eq_true_eq] at hm ⊢
    exact ⟨⟨⟨by omega, hm.1.1.2⟩, hm.1.2⟩, hm.2⟩

theorem Memory.canonicalFrom_erase (m : Memory) (lo x : Nat) (hm : m.canonicalFrom lo = true) :
    (m.erase x).canonicalFrom lo = true := by
  induction m generalizing lo with
  | nil => rfl
  | cons c rest ih =>
    obtain ⟨a, v⟩ := c
    simp only [Memory.canonicalFrom, Bool.and_eq_true, decide_eq_true_eq] at hm
    by_cases h : a = x
    · simp only [Memory.erase, h, if_true]
      exact ih lo (Memory.canonicalFrom_mono rest lo (a + 1) (by omega) hm.2)
    · simp only [Memory.erase, h, if_false, Memory.canonicalFrom, Bool.and_eq_true, decide_eq_true_eq]
      exact ⟨hm.1, ih _ hm.2⟩

theorem Memory.canonicalFrom_insert_erase (m : Memory) (lo x : Nat) (w : Byte) (hlo : lo ≤ x) (hx : x < 80)
    (hw : w ≠ Config.space) (hm : m.canonicalFrom lo = true) :
    ((m.erase x).insert x w).canonicalFrom lo = true := by
  induction m generalizing lo with
  | nil => simpa [Memory.erase, Memory.insert, Memory.canonicalFrom, hlo, hx] using hw
  | cons c rest ih =>
    obtain ⟨a, v⟩ := c
    simp only [Memory.canonicalFrom, Bool.and_eq_true, decide_eq_true_eq, bne_iff_ne, ne_eq] at hm
    by_cases h : a = x
    · simp only [Memory.erase, h, if_true]
      exact ih lo hlo (Memory.canonicalFrom_mono rest lo (a + 1) (by omega) hm.2)
    · by_cases hlt : x < a
      · simp only [Memory.erase, h, if_false, Memory.insert, hlt, if_true, Memory.canonicalFrom, Bool.and_eq_true,
          decide_eq_true_eq, bne_iff_ne, ne_eq]
        exact ⟨⟨⟨hlo, hx⟩, hw⟩, ⟨⟨by omega, hm.1.1.2⟩, hm.1.2⟩, Memory.canonicalFrom_erase rest _ x hm.2⟩
      · simp only [Memory.erase, h, if_false, Memory.insert, hlt, Memory.canonicalFrom, Bool.and_eq_true,
          decide_eq_true_eq, bne_iff_ne, ne_eq]
        exact ⟨hm.1, ih (a + 1) (by omega) hm.2⟩

/-- A store inside the cells keeps the canonical form. -/
theorem Memory.wf_store (m : Memory) (x : Nat) (w : Byte) (hx : x < 80) (hm : m.wf = true) :
    (m.store x w).wf = true := by
  by_cases hw : w = Config.space
  · simp only [Memory.store, hw, if_true, Memory.wf]
    exact Memory.canonicalFrom_erase m 0 x hm
  · simp only [Memory.store, hw, if_false, Memory.wf]
    exact Memory.canonicalFrom_insert_erase m 0 x w (by omega) hx hw hm

theorem Memory.read_of_lt (m : Memory) (lo x : Nat) (hx : x < lo) (hm : m.canonicalFrom lo = true) :
    m.read x = Config.space := by
  induction m generalizing lo with
  | nil => rfl
  | cons c rest ih =>
    obtain ⟨a, v⟩ := c
    simp only [Memory.canonicalFrom, Bool.and_eq_true, decide_eq_true_eq, bne_iff_ne, ne_eq] at hm
    have ha : a ≠ x := by omega
    simp only [Memory.read, ha, if_false]
    exact ih (a + 1) (by omega) hm.2

theorem Memory.canonicalFrom_ext (m m' : Memory) (lo : Nat) (hm : m.canonicalFrom lo = true)
    (hm' : m'.canonicalFrom lo = true) (h : ∀ x, m.read x = m'.read x) : m = m' := by
  induction m generalizing m' lo with
  | nil =>
    cases m' with
    | nil => rfl
    | cons c rest =>
      obtain ⟨a, v⟩ := c
      simp only [Memory.canonicalFrom, Bool.and_eq_true, decide_eq_true_eq, bne_iff_ne, ne_eq] at hm'
      exact absurd (by simpa [Memory.read] using (h a).symm) hm'.1.2
  | cons c rest ih =>
    obtain ⟨a, v⟩ := c
    have hc := hm
    simp only [Memory.canonicalFrom, Bool.and_eq_true, decide_eq_true_eq, bne_iff_ne, ne_eq] at hm
    cases m' with
    | nil => exact absurd (by simpa [Memory.read] using h a) hm.1.2
    | cons c' rest' =>
      obtain ⟨b, w⟩ := c'
      have hc' := hm'
      simp only [Memory.canonicalFrom, Bool.and_eq_true, decide_eq_true_eq, bne_iff_ne, ne_eq] at hm'
      have hab : a = b := by
        rcases Nat.lt_trichotomy a b with hlt | heq | hgt
        · have h1 := h a
          have hba : b ≠ a := by omega
          simp only [Memory.read, if_true, hba, if_false] at h1
          rw [Memory.read_of_lt rest' (b + 1) a (by omega) hm'.2] at h1
          exact absurd h1 hm.1.2
        · exact heq
        · have h1 := h b
          have hba : a ≠ b := by omega
          simp only [Memory.read, if_true, hba, if_false] at h1
          rw [Memory.read_of_lt rest (a + 1) b (by omega) hm.2] at h1
          exact absurd h1.symm hm'.1.2
      subst hab
      have hvw : v = w := by simpa [Memory.read] using h a
      subst hvw
      have : rest = rest' := by
        refine ih rest' (a + 1) hm.2 hm'.2 fun x => ?_
        by_cases hx : a = x
        · rw [Memory.read_of_lt rest (a + 1) x (by omega) hm.2, Memory.read_of_lt rest' (a + 1) x (by omega) hm'.2]
        · simpa [Memory.read, hx] using h x
      rw [this]

/-- Two canonical memories that read alike are the same memory. -/
theorem Memory.wf_ext (m m' : Memory) (hm : m.wf = true) (hm' : m'.wf = true) (h : ∀ x, m.read x = m'.read x) :
    m = m' :=
  Memory.canonicalFrom_ext m m' 0 hm hm' h

@[simp] theorem memClear_wf : memClear.wf = true := rfl

@[simp] theorem memRead_memClear (a : Int) : memRead memClear a = Config.space := rfl

theorem mod80_lt (v : Int) : mod80 v < 80 := by
  unfold mod80; omega

theorem mod80_natCast (n : Nat) : mod80 (n : Int) = n % 80 := by
  unfold mod80; omega

theorem mod80_of_lt (n : Nat) (h : n < 80) : mod80 (n : Int) = n := by
  unfold mod80; omega

theorem mod80_up (n : Nat) : mod80 ((n : Int) + stepBy true) = (n + 1) % 80 := by
  simp only [mod80, stepBy, if_true]; omega

theorem mod80_down (n : Nat) : mod80 ((n : Int) + stepBy false) = (n + 79) % 80 := by
  simp only [mod80, stepBy]; simp; omega

/-- What a one-byte write does to every read (R50, R51). -/
theorem memRead_memWrite (m : Memory) (a x : Int) (v : Byte) :
    memRead (memWrite m a v) x = if mod80 a = mod80 x then v else memRead m x := by
  unfold memRead memWrite
  split
  · next h => rw [h, Memory.read_store_same]
  · next h => exact Memory.read_store_other m _ _ v h

/-- A write keeps the canonical form, whatever the address: the store reduces it. -/
theorem memWrite_wf (m : Memory) (a : Int) (v : Byte) (hm : m.wf = true) : (memWrite m a v).wf = true :=
  Memory.wf_store m (mod80 a) v (mod80_lt a) hm

end Sys2Proof.Machine
end

