-- ==== Sys2Proof/Laws/Ops.lean ====
section
/-! SUPPORT. For each shared operation of the addressing engine, what it does to each part of the block, and that it keeps the
invariant. -/

namespace Sys2Proof.Machine

/-- The amount a direction adds modulo 80: 1 up, 79 down. -/
theorem mod80_stepBy (n : Nat) (up : Bool) : mod80 ((n : Int) + stepBy up) = (n + if up then 1 else 79) % 80 := by
  cases up
  · exact mod80_down n
  · exact mod80_up n

@[simp] theorem Block.shiftTable_RWT (k : Block) (up : Bool) :
    (k.shiftTable (stepBy up)).RWT = k.RWT.map fun r => (r + if up then 1 else 79) % 80 := by
  simp only [Block.shiftTable, Block.setRWT_RWT, Rwt.map, mod80_stepBy]

/-- `shift_table` writes the table only (R100). -/
theorem Block.shiftTable_frame (k : Block) (delta : Int) :
    k.shiftTable delta = { k with RWT := (k.shiftTable delta).RWT } := rfl

/-- `set_pointer` writes the pointer only (R101). -/
theorem Block.setPointer_frame (k : Block) (addr : Int) : k.setPointer addr = { k with AP := mod80 addr } := rfl

/-- `advance` writes the pointer, and the table when SH is set (R102). -/
theorem Block.advance_eq (k : Block) :
    k.advance =
      { k with
        AP := (k.AP + if k.ID then 1 else 79) % 80
        RWT := if k.SH then k.RWT.map (fun r => (r + if k.ID then 1 else 79) % 80) else k.RWT } := by
  unfold Block.advance
  rw [mod80_stepBy]
  obtain ⟨m, ap, t, inc, sh, d, c, b, cv, dl, n, f, cga⟩ := k
  cases sh
  · rfl
  · simp only [if_true]
    rw [Block.shiftTable_frame, Block.shiftTable_RWT]
    rfl

/-- `shift` moves the table or the pointer, never both (R103). -/
theorem Block.shift_eq (k : Block) (sc rl : Bool) :
    k.shift sc rl =
      if sc then { k with RWT := k.RWT.map fun r => (r + if rl then 79 else 1) % 80 }
      else { k with AP := (k.AP + if rl then 1 else 79) % 80 } := by
  cases sc
  · simp only [Block.shift, mod80_stepBy, Block.setAP]; simp
  · simp only [Block.shift, if_true]
    rw [Block.shiftTable_frame, Block.shiftTable_RWT]
    cases rl <;> rfl

theorem Block.resetHome_eq (k : Block) : k.resetHome = { k with AP := 0, RWT := ⟨0, 40, 20, 64⟩ } := rfl

theorem Block.clearAll_eq (k : Block) : k.clearAll = { k with DDRAM := [], AP := 0, RWT := ⟨0, 40, 20, 64⟩ } := rfl

theorem Block.advance_inv (k : Block) (h : k.inv) : k.advance.inv := by
  rw [Block.advance_eq]
  refine ⟨?_, h.2⟩
  obtain ⟨-, h0, h1, h2, h3⟩ := h.1
  cases k.SH <;> simp only [Block.inRange, Rwt.map] <;> simp <;> omega

theorem Block.shift_inv (k : Block) (sc rl : Bool) (h : k.inv) : (k.shift sc rl).inv := by
  rw [Block.shift_eq]
  obtain ⟨ha, h0, h1, h2, h3⟩ := h.1
  cases sc
  · exact ⟨⟨by simp; omega, h0, h1, h2, h3⟩, h.2⟩
  · refine ⟨⟨ha, ?_⟩, h.2⟩
    simp only [if_true, Rwt.map]; omega

theorem Block.setPointer_inv (k : Block) (addr : Int) (h : k.inv) : (k.setPointer addr).inv :=
  ⟨⟨mod80_lt addr, h.1.2⟩, h.2⟩

theorem Block.dataWrite_inv (k : Block) (v : Byte) (h : k.inv) : (k.dataWrite v).inv :=
  ⟨h.1, memWrite_wf k.DDRAM k.AP v h.2.1, h.2.2⟩

theorem Block.resetHome_inv (k : Block) (h : k.inv) : k.resetHome.inv :=
  ⟨⟨by simp [Block.resetHome], by simp [Block.resetHome, Rwt.canonical]⟩, h.2⟩

theorem Block.clearAll_inv (k : Block) (h : k.inv) : k.clearAll.inv :=
  ⟨⟨by simp [Block.clearAll, Block.resetHome], by simp [Block.clearAll, Block.resetHome, Rwt.canonical]⟩, rfl, h.2.2⟩

theorem Block.setDisplay_inv (k : Block) (d c b : Bool) (h : k.inv) : (k.setDisplay d c b).inv :=
  ⟨h.1, h.2.1, id⟩

theorem Block.tick_inv (k : Block) (h : k.inv) : k.tick.inv :=
  ⟨h.1, h.2.1, fun hb => by simp only [Block.tick_B] at hb; simp [hb]⟩

/-- The block written at the pointer reads as before at every other cell (R51, R120). -/
theorem Block.dataWrite_read (k : Block) (v : Byte) (x : Int) :
    memRead (k.dataWrite v).DDRAM x = if k.dataAddress = mod80 x then v else memRead k.DDRAM x :=
  memRead_memWrite k.DDRAM k.AP x v

theorem Block.dataWrite_frame (k : Block) (v : Byte) :
    k.dataWrite v = { k with DDRAM := memWrite k.DDRAM k.AP v } := rfl

/-! ### The fields after a data write (only DDRAM differs) and after `advance` (only AP and RWT differ) -/

@[simp] theorem Block.dataWrite_DDRAM (k : Block) (v : Byte) : (k.dataWrite v).DDRAM = memWrite k.DDRAM k.AP v := rfl
@[simp] theorem Block.dataWrite_AP (k : Block) (v : Byte) : (k.dataWrite v).AP = k.AP := rfl
@[simp] theorem Block.dataWrite_RWT (k : Block) (v : Byte) : (k.dataWrite v).RWT = k.RWT := rfl
@[simp] theorem Block.dataWrite_ID (k : Block) (v : Byte) : (k.dataWrite v).ID = k.ID := rfl
@[simp] theorem Block.dataWrite_SH (k : Block) (v : Byte) : (k.dataWrite v).SH = k.SH := rfl
@[simp] theorem Block.dataWrite_D (k : Block) (v : Byte) : (k.dataWrite v).D = k.D := rfl
@[simp] theorem Block.dataWrite_C (k : Block) (v : Byte) : (k.dataWrite v).C = k.C := rfl
@[simp] theorem Block.dataWrite_B (k : Block) (v : Byte) : (k.dataWrite v).B = k.B := rfl
@[simp] theorem Block.dataWrite_CV (k : Block) (v : Byte) : (k.dataWrite v).CV = k.CV := rfl
@[simp] theorem Block.dataWrite_DL (k : Block) (v : Byte) : (k.dataWrite v).DL = k.DL := rfl
@[simp] theorem Block.dataWrite_N (k : Block) (v : Byte) : (k.dataWrite v).N = k.N := rfl
@[simp] theorem Block.dataWrite_F (k : Block) (v : Byte) : (k.dataWrite v).F = k.F := rfl
@[simp] theorem Block.dataWrite_CGA (k : Block) (v : Byte) : (k.dataWrite v).CGA = k.CGA := rfl

@[simp] theorem Block.advance_DDRAM (k : Block) : k.advance.DDRAM = k.DDRAM := by rw [Block.advance_eq]
@[simp] theorem Block.advance_AP (k : Block) :
    k.advance.AP = (k.AP + if k.ID then 1 else 79) % 80 := by rw [Block.advance_eq]
@[simp] theorem Block.advance_RWT (k : Block) :
    k.advance.RWT = if k.SH then k.RWT.map (fun r => (r + if k.ID then 1 else 79) % 80) else k.RWT := by rw [Block.advance_eq]
@[simp] theorem Block.advance_ID (k : Block) : k.advance.ID = k.ID := by rw [Block.advance_eq]
@[simp] theorem Block.advance_SH (k : Block) : k.advance.SH = k.SH := by rw [Block.advance_eq]
@[simp] theorem Block.advance_D (k : Block) : k.advance.D = k.D := by rw [Block.advance_eq]
@[simp] theorem Block.advance_C (k : Block) : k.advance.C = k.C := by rw [Block.advance_eq]
@[simp] theorem Block.advance_B (k : Block) : k.advance.B = k.B := by rw [Block.advance_eq]
@[simp] theorem Block.advance_CV (k : Block) : k.advance.CV = k.CV := by rw [Block.advance_eq]
@[simp] theorem Block.advance_DL (k : Block) : k.advance.DL = k.DL := by rw [Block.advance_eq]
@[simp] theorem Block.advance_N (k : Block) : k.advance.N = k.N := by rw [Block.advance_eq]
@[simp] theorem Block.advance_F (k : Block) : k.advance.F = k.F := by rw [Block.advance_eq]
@[simp] theorem Block.advance_CGA (k : Block) : k.advance.CGA = k.CGA := by rw [Block.advance_eq]

/-- A data write and its advance, in one record (R120). -/
theorem Block.writeAdvance_eq (k : Block) (v : Byte) :
    (k.dataWrite v).advance =
      { k with
        DDRAM := memWrite k.DDRAM k.AP v
        AP := (k.AP + if k.ID then 1 else 79) % 80
        RWT := if k.SH then k.RWT.map (fun r => (r + if k.ID then 1 else 79) % 80) else k.RWT } := by
  rw [Block.advance_eq]; rfl

theorem Rwt.entry_map (f : Nat → Nat) (t : Rwt) (x : Nat) : (t.map f).entry x = f (t.entry x) := by
  rcases x with _ | _ | _ | x <;> rfl

end Sys2Proof.Machine
end

