-- ==== Sys2Proof/Laws/PerInstr.lean ====
section
/-! SUPPORT. Per instruction: the encoder writes a word of the instruction's own row of the opcode table, and of no other. -/

namespace Sys2Proof.Laws.OwnRow

/-- The rows of the table that the instruction's word belongs to are its own row, alone. -/
def Statement (i : Instr) : Prop :=
  ((opcodeTable.filter fun r => r.accepts (encodeWord i)).map fun r => r.mnemonic) = [i.mnemonic]

theorem readData : Statement .readData := by unfold Statement; decide +kernel

theorem writeData (data : Byte) : Statement (.writeData data) := by
  unfold Statement; revert data; decide +kernel

theorem readBusy : Statement .readBusy := by unfold Statement; decide +kernel

theorem setDdramAddr (a : BitVec 7) : Statement (.setDdramAddr a) := by
  unfold Statement; revert a; decide +kernel

theorem setCgramAddr (a : BitVec 6) : Statement (.setCgramAddr a) := by
  unfold Statement; revert a; decide +kernel

theorem functionSet (dl n f : Bool) : Statement (.functionSet dl n f) := by
  unfold Statement; revert dl n f; decide +kernel

theorem cursorControl (sc rl : Bool) : Statement (.cursorControl sc rl) := by
  unfold Statement; revert sc rl; decide +kernel

theorem displayControl (d c b : Bool) : Statement (.displayControl d c b) := by
  unfold Statement; revert d c b; decide +kernel

theorem entryModeSet (inc sh : Bool) : Statement (.entryModeSet inc sh) := by
  unfold Statement; revert inc sh; decide +kernel

theorem returnHome : Statement .returnHome := by unfold Statement; decide +kernel

theorem clear : Statement .clear := by unfold Statement; decide +kernel

theorem illegal : Statement .illegal := by unfold Statement; decide +kernel

end Sys2Proof.Laws.OwnRow
end

