-- ==== Sys2Proof/Laws/Projector.lean ====
section
/-! SUPPORT. The projector cell by cell, and the scan behind the cursor position. -/

namespace Sys2Proof.Machine

theorem glyphOf_space (cfg : ProjectorConfig) : glyphOf cfg Config.space = blankGlyph := rfl

theorem glyphOf_unmapped (cfg : ProjectorConfig) (code : Byte) (h : code.toNat < 0x20 ∨ 0x7F < code.toNat) :
    glyphOf cfg code = blankGlyph := by
  unfold glyphOf
  rw [if_neg]
  omega

@[simp] theorem underline_row7 (g : Glyph) : (underline g).row7 = 0x1F := rfl

/-- The cell of the grid at a position inside it. -/
theorem Block.project_cell (cfg : ProjectorConfig) (k : Block) (lines segments x y : Nat) (hx : x < lines)
    (hy : y < segments) :
    ((k.project cfg lines segments)[x]?.bind fun row => row[y]?) = some (k.gridCell cfg lines x y) := by
  simp [Block.project, hx, hy]

theorem Block.project_length (cfg : ProjectorConfig) (k : Block) (lines segments : Nat) :
    (k.project cfg lines segments).length = lines := by
  simp [Block.project]

theorem Block.project_row_length (cfg : ProjectorConfig) (k : Block) (lines segments : Nat) (row : List Glyph)
    (h : row ∈ k.project cfg lines segments) : row.length = segments := by
  simp only [Block.project, List.mem_map] at h
  obtain ⟨x, -, rfl⟩ := h
  simp

/-- What the scan answers: the best so far when nothing matches, else the last match, with its index and its column. -/
theorem scanRows_spec (ap i : Nat) (rows : List Nat) (best : Nat × Int) :
    ((∀ r ∈ rows, ap < r) ∧ scanRows ap i rows best = best) ∨
    ∃ pre r post, rows = pre ++ r :: post ∧ r ≤ ap ∧ (∀ q ∈ post, ap < q) ∧
      scanRows ap i rows best = (i + pre.length, (ap : Int) - r) := by
  induction rows generalizing i best with
  | nil => exact .inl ⟨by simp, rfl⟩
  | cons r rest ih =>
    by_cases hr : r ≤ ap
    · rcases ih (i + 1) (i, (ap : Int) - r) with ⟨hall, hs⟩ | ⟨pre, q, post, rfl, hq, hpost, hs⟩
      · exact .inr ⟨[], r, rest, rfl, hr, hall, by simp [scanRows, hr, hs]⟩
      · refine .inr ⟨r :: pre, q, post, rfl, hq, hpost, ?_⟩
        simp only [scanRows, hr, if_true, hs, List.length_cons]
        simp only [Prod.mk.injEq, and_true]; omega
    · rcases ih (i + 1) best with ⟨hall, hs⟩ | ⟨pre, q, post, rfl, hq, hpost, hs⟩
      · refine .inl ⟨?_, by simp only [scanRows, hr, if_false, hs]⟩
        intro q hq
        rcases List.mem_cons.mp hq with rfl | hq
        · omega
        · exact hall q hq
      · refine .inr ⟨r :: pre, q, post, rfl, hq, hpost, ?_⟩
        simp only [scanRows, hr, if_false, hs, List.length_cons]
        simp only [Prod.mk.injEq, and_true]; omega

end Sys2Proof.Machine
end

