-- ==== Sys2Proof/Laws/Step.lean ====
section
/-! SUPPORT. What a step can do: one equation for each kind of event, one inversion lemma, and the arms of `exec`. -/

namespace Sys2Proof.Machine

theorem step_idle (s : State) (h : s.events = []) : step s = .next s := by
  unfold step; rw [h]

theorem step_event (s : State) (e : Event) (rest : List Event) (h : s.events = e :: rest) :
    step s = handle e { s with events := rest } := by
  unfold step; rw [h]

theorem exec_readData_eq (s : State) :
    exec .readData s = .next (s.complete s.block.advance (.data s.block.dataRead)) := rfl

theorem exec_writeData_eq (v : Byte) (s : State) :
    exec (.writeData v) s = .next (s.complete (s.block.dataWrite v).advance .none) := rfl

theorem exec_readBusy_eq (s : State) : exec .readBusy s = .next (s.complete s.block (.data 0x00)) := rfl

theorem exec_setDdramAddr_eq (a : BitVec 7) (s : State) :
    exec (.setDdramAddr a) s = .next (s.complete (s.block.setAP (a.toNat % 80)) .none) := by
  have h : mod80 (ddramField a) = a.toNat % 80 := mod80_natCast a.toNat
  simp only [exec, execSetDdramAddr, Block.setPointer, h]

theorem exec_setCgramAddr_eq (a : BitVec 6) (s : State) :
    exec (.setCgramAddr a) s = .next (s.complete (s.block.setCGA a) .none) := rfl

theorem exec_functionSet_eq (dl n f : Bool) (s : State) :
    exec (.functionSet dl n f) s = .next (s.complete (s.block.setFunction dl n f) .none) := rfl

theorem exec_cursorControl_eq (sc rl : Bool) (s : State) :
    exec (.cursorControl sc rl) s = .next (s.complete (s.block.shift sc rl) .none) := rfl

theorem exec_displayControl_eq (d c b : Bool) (s : State) :
    exec (.displayControl d c b) s = .next (s.complete (s.block.setDisplay d c b) .none) := rfl

theorem exec_entryModeSet_eq (inc sh : Bool) (s : State) :
    exec (.entryModeSet inc sh) s = .next (s.complete (s.block.setEntryMode inc sh) .none) := rfl

theorem exec_returnHome_eq (s : State) : exec .returnHome s = .next (s.complete s.block.resetHome .none) := rfl

theorem exec_clear_eq (s : State) : exec .clear s = .next (s.complete s.block.clearAll .none) := rfl

theorem exec_illegal_eq (s : State) : exec .illegal s = .next (s.complete s.block .illegal) := rfl

/-- An instruction leaves the environment's list alone and answers with exactly one response. -/
theorem exec_cases (i : Instr) (s t : State) (h : exec i s = .next t) : ∃ k r, t = s.complete k r := by
  cases i <;> (cases h; exact ⟨_, _, rfl⟩)

/-- What an event that is no EXEC does when it is answered: the block stays, or it is ticked, or it is reset; and at most
one output is added. -/
theorem handle_other_cases (e : Event) (s t : State) (he : ∀ tr, e ≠ .exec tr) (h : handle e s = .next t) :
    (e = .tick ∧ t = { s with block := s.block.tick }) ∨
    (∃ flags, e = .powerOn flags ∧ t = { s with block := Block.reset flags }) ∨
    (e ≠ .tick ∧ (∀ flags, e ≠ .powerOn flags) ∧ (t = s ∨ ∃ o, t = s.observe o)) := by
  cases e with
  | exec tr => exact absurd rfl (he tr)
  | tick => cases h; exact .inl ⟨rfl, rfl⟩
  | powerOn flags => cases h; exact .inr (.inl ⟨flags, rfl, rfl⟩)
  | project lines segments =>
    simp only [handle, onProject] at h
    split at h
    · cases h; exact .inr (.inr ⟨by simp, by simp, .inr ⟨_, rfl⟩⟩)
    · cases h
  | cursorPosition lines =>
    simp only [handle, onCursorPosition] at h
    split at h
    · cases h; exact .inr (.inr ⟨by simp, by simp, .inr ⟨_, rfl⟩⟩)
    · cases h
  | cursorVisible => cases h; exact .inr (.inr ⟨by simp, by simp, .inr ⟨_, rfl⟩⟩)
  | cursorActive => cases h; exact .inr (.inr ⟨by simp, by simp, .inr ⟨_, rfl⟩⟩)
  | updateDisplay lines segments => cases h; exact .inr (.inr ⟨by simp, by simp, .inl rfl⟩)
  | overlap => cases h

/-- What a step can do: rest, run the decoded instruction, or answer another event. -/
theorem step_cases (s t : State) (h : step s = .next t) :
    (s.events = [] ∧ t = s) ∨
    (∃ tr rest, s.events = .exec tr :: rest ∧ exec (decode tr) { s with events := rest } = .next t) ∨
    (∃ e rest, s.events = e :: rest ∧ (∀ tr, e ≠ .exec tr) ∧ handle e { s with events := rest } = .next t) := by
  cases hs : s.events with
  | nil =>
    rw [step_idle s hs] at h
    cases h; exact .inl ⟨rfl, rfl⟩
  | cons e rest =>
    rw [step_event s e rest hs] at h
    by_cases he : ∃ tr, e = .exec tr
    · obtain ⟨tr, rfl⟩ := he
      exact .inr (.inl ⟨tr, rest, rfl, h⟩)
    · exact .inr (.inr ⟨e, rest, rfl, fun tr ht => he ⟨tr, ht⟩, h⟩)

/-- A run whose first step answers goes on from the answer. -/
theorem run_succ (n : Nat) (s t : State) (h : step s = .next t) :
    Host.Core.run core (n + 1) s = Host.Core.run core n t := by
  have hc : core.step s = .next t := h
  simp only [Host.Core.run]
  rw [hc]

/-- A run that answers has a first step that answers. -/
theorem run_succ_inv (n : Nat) (s u : State) (h : Host.Core.run core (n + 1) s = .next u) :
    ∃ t : State, step s = .next t ∧ Host.Core.run core n t = .next u := by
  simp only [Host.Core.run] at h
  cases hs : core.step s with
  | next t => rw [hs] at h; exact ⟨t, hs, h⟩
  | fault r => rw [hs] at h; cases h
  | refused r => rw [hs] at h; cases h

end Sys2Proof.Machine
end

