-- ==== Sys2Proof/Tests/Slice0.lean ====
section
/-! SUPPORT. The model's own tests. Expected results come from spec/95_test_vectors.md (S1 to S9, sections 2.1 to 2.6) and from
the encodings and examples of the rules; the witnesses meet the hypotheses of the statements. -/

namespace Sys2Proof.Tests

open Sys2Proof Sys2Proof.Machine

/-- The block after reset with the default flags, changed by a function. -/
def blockWith (f : Block → Block) : Block := f (Block.reset Config.defaultResetFlags)

/-- A machine with that block and these events to come. -/
def machine (f : Block → Block) (events : List Event) : State := { block := blockWith f, events := events, outputs := [] }

/-- A property of the block, the events left and the outputs after one step. -/
def stepGives (s : State) (p : State → Bool) : Bool :=
  match step s with
  | .next t => p t
  | .fault _ => false
  | .refused _ => false

/-- The one EXEC of a ten-bit word, at a block. -/
def execWord (w : Word) (f : Block → Block) : State := machine f [.exec (Transaction.unpack w)]

/-- A character ROM for the tests: every mapped glyph is its code in row 0. -/
def testRom (blinkOff : BlinkOff) : ProjectorConfig :=
  { cgrom := fun c => { blankGlyph with row0 := c.setWidth 5, row7 := 0x01 }, blinkOff := blinkOff }

/-! ### Well-formedness: an ill-formed term for each check -/

theorem test_wf_project_no_line : (Event.project 0 16).wellFormed = false := by decide
theorem test_wf_project_five_lines : (Event.project 5 16).wellFormed = false := by decide
theorem test_wf_project_no_segment : (Event.project 2 0).wellFormed = false := by decide
theorem test_wf_project_81_segments : (Event.project 2 81).wellFormed = false := by decide
theorem test_wf_project_bounds : (Event.project 1 1).wellFormed && (Event.project 4 80).wellFormed = true := by decide
theorem test_wf_cursor_five_lines : (Event.cursorPosition 5).wellFormed = false := by decide
theorem test_wf_cursor_no_line : (Event.cursorPosition 0).wellFormed = false := by decide
theorem test_wf_overlap : Event.overlap.wellFormed = false := by decide
theorem test_wf_asm_ranges :
    ([AsmLine.setDdramAddr 128, .setCgramAddr 64, .functionSet 2 0 0, .cursorControl 0 2, .displayControl 0 2 0,
      .entryModeSet 2 0, .writeData 256, .raw 2 0 0, .raw 0 2 0, .raw 0 0 256, .writeString ['é']].all
        fun l => !l.wellFormed) = true := by decide
theorem test_wide_word_rejected : decodeWide 1024 = .error (.widerThanTransaction 1024) := by rfl
theorem test_wide_table_word_rejected : decodeTableWord 16 0x400 = none := by decide

/-! ### Decoding, the words written out from the encodings of R72 and section 2.1 -/

theorem test_decode_read_data : decode (Transaction.unpack 0b1110100101) = .readData := by decide
theorem test_decode_write_data : decode (Transaction.unpack 0b1001001000) = .writeData 0x48 := by decide
theorem test_decode_read_busy : decode (Transaction.unpack 0b0111111111) = .readBusy := by decide
theorem test_decode_set_ddram_127 : decode (Transaction.unpack 0b0011111111) = .setDdramAddr 127 := by decide
theorem test_decode_set_ddram_103 : decode (Transaction.unpack 0b0011100111) = .setDdramAddr 103 := by decide
theorem test_decode_set_cgram : decode (Transaction.unpack 0b0001001000) = .setCgramAddr 8 := by decide
theorem test_decode_set_cgram_63 : decode (Transaction.unpack 0b0001111111) = .setCgramAddr 0x3F := by decide
theorem test_decode_function_set : decode (Transaction.unpack 0b0000111000) = .functionSet true true false := by decide
theorem test_decode_function_set_23 : decode (Transaction.unpack 0b0000100011) = .functionSet false false false := by
  decide
theorem test_decode_cursor_control : decode (Transaction.unpack 0b0000011000) = .cursorControl true false := by decide
theorem test_decode_cursor_control_14 : decode (Transaction.unpack 0b0000010100) = .cursorControl false true := by decide
theorem test_decode_display_control : decode (Transaction.unpack 0b0000001100) = .displayControl true false false := by
  decide
theorem test_decode_display_control_09 : decode (Transaction.unpack 0b0000001001) = .displayControl false false true := by
  decide
theorem test_decode_entry_mode : decode (Transaction.unpack 0b0000000110) = .entryModeSet true false := by decide
theorem test_decode_entry_mode_05 : decode (Transaction.unpack 0b0000000101) = .entryModeSet false true := by decide
theorem test_decode_return_home : decode (Transaction.unpack 0b0000000011) = .returnHome := by decide
theorem test_decode_clear : decode (Transaction.unpack 0b0000000001) = .clear := by decide
theorem test_decode_illegal : decode (Transaction.unpack 0b0000000000) = .illegal := by decide
theorem test_table_word : decodeTableWord 16 0x248 = some (.writeData 0x48) := by decide
theorem test_fetch_word_runs :
    stepGives (State.reset.withFetchWord 16 0x0A8) (fun t => t.block.AP == 40 && t.events == []) = true := by decide

/-! ### Instructions, one step each -/

/-- Section 2.2: AP=0, ID=0, SH=1, RWT canonical; 0x231 gives DDRAM[0]=0x31, AP=79, RWT=(79,39,19,63). -/
theorem test_write_data_decrement_shift :
    stepGives (execWord 0x231 fun k => { k with ID := false, SH := true }) (fun t =>
      t.block.DDRAM.read 0 == 0x31 && t.block.AP == 79 && t.block.RWT == ⟨79, 39, 19, 63⟩ &&
      t.outputs == [.response .none]) = true := by decide

/-- S5: AP=79, ID=1; 0x241 gives DDRAM[79]=0x41, AP=0. -/
theorem test_write_data_wraps :
    stepGives (execWord 0x241 fun k => { k with AP := 79 }) (fun t =>
      t.block.DDRAM.read 79 == 0x41 && t.block.AP == 0 && t.block.RWT == ⟨0, 40, 20, 64⟩) = true := by decide

/-- Section 2.2: AP=40, DDRAM[40]=0x41, SH=1; 0x3A5 gives DATA(0x41), AP=41, RWT=(1,41,21,65). -/
theorem test_read_data_shifts :
    stepGives (execWord 0x3A5 fun k => { k with AP := 40, SH := true, DDRAM := [(40, 0x41)] }) (fun t =>
      t.outputs == [.response (.data 0x41)] && t.block.AP == 41 && t.block.RWT == ⟨1, 41, 21, 65⟩ &&
      t.block.DDRAM == [(40, 0x41)]) = true := by decide

/-- Section 2.2: AP=0, ID=0, SH=0; 0x300 gives DATA(DDRAM[0]), AP=79. -/
theorem test_read_data_decrements :
    stepGives (execWord 0x300 fun k => { k with ID := false }) (fun t =>
      t.outputs == [.response (.data 0x20)] && t.block.AP == 79) = true := by decide

/-- Section 2.3: any state, AP=41; 0x1FF gives DATA(0x00), state unchanged. -/
theorem test_read_busy :
    stepGives (execWord 0x1FF fun k => { k with AP := 41 }) (fun t =>
      t.outputs == [.response (.data 0x00)] && t.block == blockWith fun k => { k with AP := 41 }) = true := by decide

/-- R133: 0xD0 (A=80) gives AP=0. -/
theorem test_set_ddram_addr_80 : stepGives (execWord 0x0D0 id) (fun t => t.block.AP == 0) = true := by decide

/-- R133: 0xFF (A=127) gives AP=47. -/
theorem test_set_ddram_addr_127 : stepGives (execWord 0x0FF id) (fun t => t.block.AP == 47) = true := by decide

/-- R134: 0x7F gives CGA=0x3F and nothing else. -/
theorem test_set_cgram_addr :
    stepGives (execWord 0x07F id) (fun t => t.block == blockWith fun k => { k with CGA := 0x3F }) = true := by decide

/-- Section 2.3: 0x038 gives DL=1, N=1, F=0. -/
theorem test_function_set :
    stepGives (execWord 0x038 id) (fun t => t.block == blockWith fun k => { k with DL := true, N := true }) = true := by
  decide

/-- R104: 0x1C moves every entry by -1 and leaves AP. -/
theorem test_cursor_control_table :
    stepGives (execWord 0x01C fun k => { k with AP := 5 }) (fun t =>
      t.block.RWT == ⟨79, 39, 19, 63⟩ && t.block.AP == 5) = true := by decide

/-- R137: AP=79, 0x14 gives AP=0, the table unchanged. -/
theorem test_cursor_control_pointer :
    stepGives (execWord 0x014 fun k => { k with AP := 79, ID := false, SH := true }) (fun t =>
      t.block.AP == 0 && t.block.RWT == ⟨0, 40, 20, 64⟩) = true := by decide

/-- Section 2.3: 0x00D gives D=1, C=0, B=1, CV=1. -/
theorem test_display_control :
    stepGives (execWord 0x00D id) (fun t =>
      t.block == blockWith fun k => { k with D := true, B := true, CV := true }) = true := by decide

/-- Section 2.3: B=1, CV=0; 0x00C gives B=0, CV=0. -/
theorem test_display_control_blink_off :
    stepGives (execWord 0x00C fun k => { k with B := true }) (fun t => !t.block.B && !t.block.CV && t.block.D) = true := by
  decide

/-- Section 2.3: 0x005 gives ID=0, SH=1. -/
theorem test_entry_mode_set :
    stepGives (execWord 0x005 id) (fun t => t.block == blockWith fun k => { k with ID := false, SH := true }) = true := by
  decide

/-- Section 2.3: AP=17, RWT=(3,43,23,67), DDRAM[0]=0x41; 0x002 gives AP=0, RWT canonical, DDRAM[0]=0x41. -/
theorem test_return_home :
    stepGives (execWord 0x002 fun k => { k with AP := 17, RWT := ⟨3, 43, 23, 67⟩, DDRAM := [(0, 0x41)] }) (fun t =>
      t.block == blockWith fun k => { k with DDRAM := [(0, 0x41)] }) = true := by decide

/-- Section 2.3: AP=2, DDRAM[0..1]=0x48,0x69, ID=0, SH=1, D=1; 0x001 clears, homes and keeps ID, SH, D. -/
theorem test_clear :
    stepGives (execWord 0x001 fun k =>
        { k with AP := 2, DDRAM := [(0, 0x48), (1, 0x69)], ID := false, SH := true, D := true }) (fun t =>
      t.block == blockWith fun k => { k with ID := false, SH := true, D := true }) = true := by decide

/-- Section 2.3: 0x000 gives ILLEGAL, state unchanged. -/
theorem test_illegal :
    stepGives (execWord 0x000 id) (fun t => t.outputs == [.response .illegal] && t.block == blockWith id) = true := by
  decide

/-- R33: storing the space takes the entry away, so equal memories are equal data. -/
theorem test_store_space_is_canonical :
    memWrite [(3, 0x41), (7, 0x42)] 3 0x20 = [(7, 0x42)] ∧ memWrite [(7, 0x42)] 83 0x41 = [(3, 0x41), (7, 0x42)] := by
  decide

/-! ### Cursor position (section 2.4) -/

theorem test_cursor_two_lines : (blockWith fun k => { k with AP := 41 }).cursorPosition 2 = (1, 1) := by decide
theorem test_cursor_four_lines : (blockWith fun k => { k with AP := 41 }).cursorPosition 4 = (2, 21) := by decide
theorem test_cursor_one_line_negative :
    (blockWith fun k => { k with AP := 5, RWT := ⟨10, 50, 30, 74⟩ }).cursorPosition 1 = (0, -5) := by decide
theorem test_cursor_no_match :
    (blockWith fun k => { k with RWT := ⟨79, 39, 19, 63⟩ }).cursorPosition 4 = (0, -79) := by decide
theorem test_cursor_shifted :
    (blockWith fun k => { k with AP := 47, RWT := ⟨79, 39, 19, 63⟩ }).cursorPosition 4 = (2, 28) := by decide

/-! ### Projection, overlay and blink (sections 2.5 and 2.6) -/

/-- The block of section 2.5: "Hi" with the cursor behind it. -/
def hiBlock (c b cv : Bool) : Block :=
  blockWith fun k => { k with DDRAM := [(0, 0x48), (1, 0x69)], AP := 2, D := true, C := c, B := b, CV := cv }

theorem test_project_characters :
    ((hiBlock false false false).project (testRom .character) 2 3) =
      [[⟨8, 0, 0, 0, 0, 0, 0, 1⟩, ⟨9, 0, 0, 0, 0, 0, 0, 1⟩, blankGlyph], [blankGlyph, blankGlyph, blankGlyph]] := by
  decide
theorem test_project_underline :
    (hiBlock true false false).gridCell (testRom .character) 2 0 2 = ⟨0, 0, 0, 0, 0, 0, 0, 0x1F⟩ := by decide
theorem test_project_full : (hiBlock false true true).gridCell (testRom .character) 2 0 2 = fullGlyph := by decide
theorem test_project_blink_off_blank :
    ({ hiBlock false true false with AP := 1 }).gridCell (testRom .blank) 2 0 1 = blankGlyph := by decide
theorem test_project_blink_off_character :
    ({ hiBlock false true false with AP := 1 }).gridCell (testRom .character) 2 0 1 = ⟨9, 0, 0, 0, 0, 0, 0, 1⟩ := by
  decide
theorem test_project_off :
    ({ hiBlock true true true with D := false }).project (testRom .character) 1 3 =
      [[blankGlyph, blankGlyph, blankGlyph]] := by decide
theorem test_project_wraps :
    ({ hiBlock false false false with RWT := ⟨79, 39, 19, 63⟩ }).gridCell (testRom .character) 2 0 1 =
      ⟨8, 0, 0, 0, 0, 0, 0, 1⟩ := by decide
theorem test_glyph_unmapped :
    glyphOf (testRom .character) 0x80 = blankGlyph ∧ glyphOf (testRom .character) 0x1F = blankGlyph := by decide
theorem test_tick :
    ((blockWith fun k => { k with B := true, CV := true }).tick.CV,
     (blockWith fun k => { k with B := true }).tick.CV,
     (blockWith fun k => { k with CV := true }).tick.CV) = (false, true, false) := by decide
theorem test_project_refused : step (machine id [.project 5 16]) = .refused (.projectionOutOfRange 5 16) := by rfl
theorem test_overlap_refused : step (machine id [.overlap]) = .refused .overlappingEvents := by rfl

/-! ### Witnesses: concrete data that meet the hypotheses of each statement -/

theorem witness_oneHotBytesDispatch :
    ([0x80, 0x40, 0x20, 0x10, 0x08, 0x04, 0x02, 0x01, 0x00].all fun b : Byte =>
      (machine id [.exec ⟨false, false, b⟩]).events == [.exec ⟨false, false, b⟩]) = true := by decide

theorem witness_firstLevelDecode : (Transaction.unpack 0x0FF).rs = false ∧ (Transaction.unpack 0x0FF).rw = false := by
  decide

theorem witness_mostSignificantBitSelects :
    ([255, 128, 127, 64, 63, 32, 31, 16, 15, 8, 7, 4, 3, 2, 1, 0].map fun n =>
      decode ⟨false, false, BitVec.ofNat 8 n⟩) =
      [.setDdramAddr 127, .setDdramAddr 0, .setCgramAddr 63, .setCgramAddr 0, .functionSet true true true,
       .functionSet false false false, .cursorControl true true, .cursorControl false false,
       .displayControl true true true, .displayControl false false false, .entryModeSet true true,
       .entryModeSet false false, .returnHome, .returnHome, .clear, .illegal] := by decide

theorem witness_dontCareBitsChangeNothing :
    (Transaction.unpack 0x1A5).rw = true ∧ (16 ≤ (0x10 : Byte).toNat ∧ (0x10 : Byte).toNat < 64) ∧
    (16 ≤ (0x3F : Byte).toNat ∧ (0x3F : Byte).toNat < 64) ∧ (3 : Byte).toNat < 4 ∧ (0x03 : Byte) ≠ 0x00 := by decide

theorem witness_encodeThenDecode : (Instr.setDdramAddr 127).wellFormed = true := by decide

theorem witness_assemblerWords :
    (127 ≤ 127 ∧ 63 ≤ 63 ∧ 1 ≤ 1 ∧ 255 ≤ 255) ∧ (AsmLine.writeString ['H', 'i', '~']).wellFormed = true := by decide

theorem witness_stepRunsTheDecodedInstruction :
    (execWord 0x0A8 id).events = [.exec (Transaction.unpack 0x0A8)] ∧ State.reset.events = [] := by decide

theorem witness_oneEventAStep :
    (∃ t, step State.reset = .next t) ∧ (∃ t, step (execWord 0x241 id) = .next t) ∧
    (∃ t, step (machine id [.tick]) = .next t) :=
  ⟨⟨_, rfl⟩, ⟨_, rfl⟩, ⟨_, rfl⟩⟩

theorem witness_blockChangesOnlyAtExecAndTick :
    (machine id [.cursorVisible]).events = .cursorVisible :: [] ∧ (∃ t, step (machine id [.cursorVisible]) = .next t) ∧
    (∀ tr, Event.cursorVisible ≠ .exec tr) ∧ Event.cursorVisible ≠ .tick ∧ (∀ f, Event.cursorVisible ≠ .powerOn f) :=
  ⟨rfl, ⟨_, rfl⟩, by simp, by simp, by simp⟩

theorem witness_refusedExactlyWithoutMeaning :
    (machine id [.project 4 80, .tick]).events = .project 4 80 :: [.tick] ∧
    (machine id [.project 4 81]).events = .project 4 81 :: [] := by decide

theorem witness_dataWords :
    (Transaction.unpack 0x2FF).pack &&& 0x300 = 0x200 ∧ (Transaction.unpack 0x3FF).pack &&& 0x300 = 0x300 ∧
    (Transaction.unpack 0x1FF).pack &&& 0x300 = 0x100 ∧ (blockWith fun k => { k with AP := 79 }).AP < 80 := by decide

theorem witness_registerWords :
    (Transaction.unpack 0x0FF).pack &&& 0x380 = 0x080 ∧ (Transaction.unpack 0x07F).pack &&& 0x3C0 = 0x040 ∧
    (Transaction.unpack 0x03F).pack &&& 0x3E0 = 0x020 ∧ (Transaction.unpack 0x01F).pack &&& 0x3F0 = 0x010 ∧
    (Transaction.unpack 0x00F).pack &&& 0x3F8 = 0x008 ∧ (Transaction.unpack 0x007).pack &&& 0x3FC = 0x004 ∧
    (Transaction.unpack 0x003).pack &&& 0x3FE = 0x002 ∧ (Transaction.unpack 0x001).pack &&& 0x3FF = 0x001 ∧
    (Transaction.unpack 0x000).pack &&& 0x3FF = 0x000 := by decide

theorem witness_windowFollowsThePointer :
    (Instr.readData = .readData ∨ ∃ v, Instr.readData = .writeData v) ∧
    (Instr.writeData 0x41 = .readData ∨ ∃ v, Instr.writeData 0x41 = .writeData v) ∧
    (blockWith id).SH = false ∧ (blockWith fun k => { k with SH := true }).SH = true :=
  ⟨.inl rfl, .inr ⟨_, rfl⟩, rfl, rfl⟩

theorem witness_twoReadsUseTwoAddresses :
    (blockWith fun k => { k with SH := true }).SH = true ∧
    (machine id [.project 2 16]).events = .project 2 16 :: [] ∧ (∃ t, step (machine id [.project 2 16]) = .next t) :=
  ⟨rfl, rfl, ⟨_, rfl⟩⟩

theorem witness_writeThenReadBack : ∃ s : State,
    s.events = .exec (encode (.writeData 0x58)) :: .exec (encode (.setDdramAddr (BitVec.ofNat 7 s.block.dataAddress))) ::
      .exec (encode .readData) :: [] ∧ s.block.AP = 79 :=
  ⟨machine (fun k => { k with AP := 79 })
    [.exec (encode (.writeData 0x58)), .exec (encode (.setDdramAddr 79)), .exec (encode .readData)], rfl, rfl⟩

theorem witness_writeStringFillsConsecutiveCells : ∃ (cs : List Byte) (s : State),
    cs = [0x48, 0x69] ∧ cs.length ≤ 80 ∧ s.block.ID = true ∧ s.block.SH = false ∧ s.block.AP = 79 ∧ s.block.AP < 80 ∧
    s.events = (cs.map fun c => Event.exec (encode (.writeData c))) ++ [.tick] :=
  ⟨[0x48, 0x69], machine (fun k => { k with AP := 79 })
    [.exec (encode (.writeData 0x48)), .exec (encode (.writeData 0x69)), .tick], by decide⟩

theorem witness_oppositeShiftsCancel : (blockWith fun k => { k with AP := 79 }).inRange := by decide

theorem witness_entryModeSetPersists :
    (∀ inc sh, Instr.clear ≠ .entryModeSet inc sh) ∧ ∃ t, exec .clear State.reset = .next t :=
  ⟨by simp, _, rfl⟩

theorem witness_clearFillsEveryCell : 79 < 80 ∧ 0 < 80 := by decide

theorem witness_illegalChangesNothing : ∃ (s u : State),
    s.events = .exec ⟨false, false, 0x00⟩ :: [.tick] ∧ step { s with events := [.tick] } = .next u :=
  ⟨machine id [.exec ⟨false, false, 0x00⟩, .tick], _, rfl, rfl⟩

theorem witness_instructionWritesThatMoveThePointer :
    ∃ t, exec (decode ⟨false, false, 0xFF⟩) State.reset = .next t ∧ decode ⟨false, false, 0xFF⟩ ≠ .illegal :=
  ⟨_, rfl, by decide⟩

theorem witness_ddramChangesOnlyByWriteAndClear :
    (∃ t, exec .readData State.reset = .next t) ∧ (∀ v, Instr.readData ≠ .writeData v) ∧ Instr.readData ≠ .clear ∧
    (machine id [.tick]).events = .tick :: [] ∧ (∃ t, step (machine id [.tick]) = .next t) ∧
    (∀ tr, Event.tick ≠ .exec tr) ∧ (∀ f, Event.tick ≠ .powerOn f) :=
  ⟨⟨_, rfl⟩, by simp, by simp, rfl, ⟨_, rfl⟩, by simp, by simp⟩

theorem witness_entryModeGovernsDataTransactions :
    (blockWith id).ID = true ∧ (blockWith fun k => { k with ID := false }).ID = false ∧
    (execWord 0x001 id).events = .exec (Transaction.unpack 0x001) :: [] ∧ (∃ t, step (execWord 0x001 id) = .next t) ∧
    (∀ tr inc sh, Event.exec (Transaction.unpack 0x001) = .exec tr → decode tr ≠ .entryModeSet inc sh) ∧
    (∀ f, Event.exec (Transaction.unpack 0x001) ≠ .powerOn f) :=
  ⟨rfl, rfl, rfl, ⟨_, rfl⟩, by
    rintro tr inc sh h
    cases h
    have hd : decode (Transaction.unpack 0x001) = .clear := by decide
    rw [hd]; simp, by simp⟩

theorem witness_eachFlagHasItsWriters :
    (machine id [.tick]).events = .tick :: [] ∧ (∃ t, step (machine id [.tick]) = .next t) ∧ (∀ f, Event.tick ≠ .powerOn f) :=
  ⟨rfl, ⟨_, rfl⟩, by simp⟩

theorem witness_tableMovesOnlyWithShiftsAndHome : ∃ t, exec (.writeData 0x41) State.reset = .next t := ⟨_, rfl⟩

theorem witness_inertFieldsAreNeverRead : ∃ s s' t : State,
    s.block.withoutInert = s'.block.withoutInert ∧ s.events = s'.events ∧ s.block ≠ s'.block ∧
    Host.Core.run core 1 s = .next t :=
  ⟨execWord 0x241 id, execWord 0x241 (fun k => { k with CGA := 5, N := true }), _, rfl, rfl, by decide, rfl⟩

theorem witness_stepKeepsTheInvariant :
    (blockWith id).inv ∧ (∃ t, step (execWord 0x241 id) = .next t) ∧ (execWord 0x241 id).block.inv :=
  ⟨by decide, ⟨_, rfl⟩, by decide⟩

theorem witness_pointerStaysInRange : (∃ t, step (execWord 0x014 id) = .next t) ∧ Reached State.reset :=
  ⟨⟨_, rfl⟩, Config.defaultResetFlags, [], .here⟩

theorem witness_resetValues :
    (machine id [.powerOn Config.defaultResetFlags]).events = .powerOn Config.defaultResetFlags :: [] := by decide

theorem witness_bootSequenceInAnyOrder : ∃ (boot : List Instr) (s : State),
    boot.Perm [.functionSet true true false, .clear, .entryModeSet true false, .displayControl true false false] ∧
    s.events = (boot.map fun i => Event.exec (encode i)) ++ [] :=
  ⟨[.functionSet true true false, .clear, .entryModeSet true false, .displayControl true false false],
    machine id [.exec (encode (.functionSet true true false)), .exec (encode .clear),
      .exec (encode (.entryModeSet true false)), .exec (encode (.displayControl true false false))],
    List.Perm.refl _, rfl⟩

theorem witness_characterRomLookup : ∃ cfg : ProjectorConfig, cfg.cgrom 0x20 = blankGlyph ∧
    (0x20 ≤ (0x20 : Byte).toNat ∧ (0x7F : Byte).toNat ≤ 0x7F) ∧ (0x1F : Byte).toNat < 0x20 ∧ 0x7F < (0x80 : Byte).toNat :=
  ⟨{ cgrom := fun _ => blankGlyph, blinkOff := .character }, rfl, by decide⟩

theorem witness_projectionShowsTheWindow :
    (hiBlock false false false).D = true ∧ 3 < 4 ∧ 79 < 80 ∧ (hiBlock false false false).cursorPosition 4 ≠ (3, 79) := by
  decide

theorem witness_displayOffIsBlank : (blockWith id).D = false := by decide

theorem witness_cursorCellOverlay :
    ((hiBlock true true false).D = true ∧ (hiBlock true true false).cursorPosition 2 = (0, 2) ∧ 2 < 3) ∧
    ({ hiBlock true true true with AP := 39 }).cursorPosition 2 = (0, 39) ∧
    ({ hiBlock true false false with AP := 0, RWT := ⟨79, 39, 19, 63⟩ }).cursorPosition 4 = (0, -79) ∧
    (testRom .blank).blinkOff = .blank ∧ (testRom .character).blinkOff = .character := by decide

theorem witness_gridAfterClear : (hiBlock true true true).D = true ∧ (1 ≤ 80 ∧ 80 ≤ 80) ∧ ((3, 79) : Nat × Nat) ≠ (0, 0) := by
  decide

theorem witness_cursorPositionIsLastMatch :
    (1 ≤ 4 ∧ (blockWith id).inRange) ∧
    (∀ i, i < 1 → (blockWith fun k => { k with AP := 5, RWT := ⟨10, 50, 30, 74⟩ }).AP <
      (blockWith fun k => { k with AP := 5, RWT := ⟨10, 50, 30, 74⟩ }).RWT.entry i) ∧
    ((blockWith fun k => { k with AP := 41 }).RWT.entry 2 ≤ 41 ∧
      ∀ j, 2 < j → j < 4 → 41 < (blockWith fun k => { k with AP := 41 }).RWT.entry j) := by
  refine ⟨by decide, ?_, by decide, ?_⟩
  · intro i hi
    obtain rfl : i = 0 := by omega
    decide
  · intro j h1 h2
    obtain rfl : j = 3 := by omega
    decide

theorem witness_boundaryPositionsAreKept :
    State.reset.block.AP = 0 ∧ State.reset.block.RWT = ⟨0, 40, 20, 64⟩ ∧ (blockWith fun k => { k with AP := 39 }).AP = 39 ∧
    (blockWith fun k => { k with AP := 39 }).RWT = ⟨0, 40, 20, 64⟩ := by decide

theorem witness_accessorsArePureReads :
    (machine id [.cursorVisible]).events = .cursorVisible :: [] ∧ (machine id [.cursorActive]).events = .cursorActive :: [] ∧
    (machine id [.cursorPosition 4]).events = .cursorPosition 4 :: [] := by decide

theorem witness_projectEventShowsTheGrid :
    (machine id [.project 4 80]).events = .project 4 80 :: [] ∧ (machine id [.project 5 80]).events = .project 5 80 :: [] ∧
    (machine id [.project 4 0]).events = .project 4 0 :: [] ∧
    (machine id [.cursorPosition 0]).events = .cursorPosition 0 :: [] := by decide

theorem witness_resizeLeavesTheStateUnchanged :
    (machine id [.updateDisplay 4 20, .project 4 20]).events = .updateDisplay 4 20 :: [.project 4 20] := by decide

theorem witness_ticksFlipTheBlinkPhase : ∃ s s' : State,
    s.events = List.replicate 3 .tick ++ [] ∧ s.block.B = true ∧ s'.events = List.replicate 0 .tick ++ [] ∧
    s'.block.B = false :=
  ⟨machine (fun k => { k with B := true, CV := true }) [.tick, .tick, .tick], State.reset, by decide⟩

end Sys2Proof.Tests
end

/-! ## What a step does to the block

One equation for the block after each instruction and one case lemma for the block after a step; the invariants of
spec/10_state.md follow from these two. -/

namespace Sys2Proof.Machine

/-- The block after an instruction: the effect alone, without the response (`exec_eq_complete_after`). -/
def Block.after (k : Block) : Instr → Block
  | .readData => k.advance
  | .writeData v => (k.dataWrite v).advance
  | .readBusy => k
  | .setDdramAddr a => k.setPointer (ddramField a)
  | .setCgramAddr a => k.setCGA a
  | .functionSet dl n f => k.setFunction dl n f
  | .cursorControl sc rl => k.shift sc rl
  | .displayControl d c b => k.setDisplay d c b
  | .entryModeSet inc sh => k.setEntryMode inc sh
  | .returnHome => k.resetHome
  | .clear => k.clearAll
  | .illegal => k

/-- Every instruction completes, with the block `Block.after` gives. -/
theorem exec_eq_complete_after (i : Instr) (s : State) : ∃ r, exec i s = .next (s.complete (s.block.after i) r) := by
  cases i <;> exact ⟨_, rfl⟩

theorem exec_block (i : Instr) (s t : State) (h : exec i s = .next t) : t.block = s.block.after i := by
  obtain ⟨r, hr⟩ := exec_eq_complete_after i s
  cases hr.symm.trans h
  rfl

/-- What an answered step does to the block: nothing, one instruction, a tick, or a reset. -/
theorem step_block_cases (s t : State) (h : step s = .next t) :
    t.block = s.block ∨
    (∃ tr rest, s.events = .exec tr :: rest ∧ t.block = s.block.after (decode tr)) ∨
    (∃ rest, s.events = .tick :: rest ∧ t.block = s.block.tick) ∨
    (∃ flags rest, s.events = .powerOn flags :: rest ∧ t.block = Block.reset flags) := by
  rcases step_cases s t h with ⟨-, rfl⟩ | ⟨tr, rest, hs, hx⟩ | ⟨e, rest, hs, he, hh⟩
  · exact .inl rfl
  · exact .inr (.inl ⟨tr, rest, hs, exec_block _ { s with events := rest } t hx⟩)
  · rcases handle_other_cases e _ t he hh with ⟨rfl, rfl⟩ | ⟨flags, rfl, rfl⟩ | ⟨-, -, rfl | ⟨o, rfl⟩⟩
    · exact .inr (.inr (.inl ⟨rest, hs, rfl⟩))
    · exact .inr (.inr (.inr ⟨flags, rest, hs, rfl⟩))
    · exact .inl rfl
    · exact .inl rfl

/-- A property of the block that reset establishes and every answered step keeps holds in every reached state. -/
theorem Reached.block_induction (P : Block → Prop) (hreset : ∀ flags, P (Block.reset flags))
    (hstep : ∀ s t : State, step s = .next t → P s.block → P t.block) (t : State) (h : Reached t) : P t.block := by
  obtain ⟨flags, events, hr⟩ := h
  induction hr with
  | here => exact hreset flags
  | after u v _ huv ih => exact hstep u v huv ih

/-! ### The fields after `shift` -/

@[simp] theorem Block.shift_AP (k : Block) (sc rl : Bool) :
    (k.shift sc rl).AP = if sc then k.AP else (k.AP + if rl then 1 else 79) % 80 := by
  rw [Block.shift_eq]; cases sc <;> rfl
@[simp] theorem Block.shift_RWT (k : Block) (sc rl : Bool) :
    (k.shift sc rl).RWT = if sc then k.RWT.map (fun r => (r + if rl then 79 else 1) % 80) else k.RWT := by
  rw [Block.shift_eq]; cases sc <;> rfl
@[simp] theorem Block.shift_ID (k : Block) (sc rl : Bool) : (k.shift sc rl).ID = k.ID := by
  rw [Block.shift_eq]; cases sc <;> rfl
@[simp] theorem Block.shift_SH (k : Block) (sc rl : Bool) : (k.shift sc rl).SH = k.SH := by
  rw [Block.shift_eq]; cases sc <;> rfl

/-! ### The pointer and the table stay addresses (R23, R26) -/

theorem Rwt.canonical_entry_lt (x : Nat) : Rwt.canonical.entry x < 80 := by
  rcases x with _ | _ | _ | x
  exacts [(by decide : 0 < 80), (by decide : 40 < 80), (by decide : 20 < 80), (by decide : 64 < 80)]

/-- A table whose entries moved modulo 80 where `moves` says so: each entry is as it was, or an address. -/
theorem Rwt.entry_moved (moves : Prop) [Decidable moves] (t : Rwt) (d x : Nat) :
    (if moves then t.map (fun r => (r + d) % 80) else t).entry x = t.entry x ∨
      (if moves then t.map (fun r => (r + d) % 80) else t).entry x < 80 := by
  split
  · exact .inr (by rw [Rwt.entry_map]; exact Nat.mod_lt _ (by decide))
  · exact .inl rfl

theorem Block.inRange_iff (k : Block) : k.inRange ↔ k.AP < 80 ∧ ∀ x, k.RWT.entry x < 80 := by
  constructor
  · rintro ⟨ha, h0, h1, h2, h3⟩
    refine ⟨ha, fun x => ?_⟩
    rcases x with _ | _ | _ | x
    exacts [h0, h1, h2, h3]
  · rintro ⟨ha, hr⟩
    exact ⟨ha, hr 0, hr 1, hr 2, hr 3⟩

/-- No instruction leaves a pointer that is neither the old one nor below 80 (R23). -/
theorem Block.after_AP_kept_or_lt (k : Block) (i : Instr) : (k.after i).AP = k.AP ∨ (k.after i).AP < 80 := by
  cases i with
  | readData | writeData => exact .inr (by rw [Block.after, Block.advance_AP]; exact Nat.mod_lt _ (by decide))
  | setDdramAddr a => exact .inr (mod80_lt (ddramField a))
  | cursorControl sc rl =>
    rw [Block.after, Block.shift_AP]
    split
    · exact .inl rfl
    · exact .inr (Nat.mod_lt _ (by decide))
  | returnHome | clear => exact .inr (by decide : 0 < 80)
  | readBusy | setCgramAddr | functionSet | displayControl | entryModeSet | illegal => exact .inl rfl

/-- No instruction leaves a table entry that is neither the old one nor below 80 (R26). -/
theorem Block.after_entry_kept_or_lt (k : Block) (i : Instr) (x : Nat) :
    (k.after i).RWT.entry x = k.RWT.entry x ∨ (k.after i).RWT.entry x < 80 := by
  cases i with
  | readData | writeData => rw [Block.after, Block.advance_RWT]; exact Rwt.entry_moved ..
  | cursorControl sc rl => rw [Block.after, Block.shift_RWT]; exact Rwt.entry_moved ..
  | returnHome | clear => exact .inr (Rwt.canonical_entry_lt x)
  | readBusy | setDdramAddr | setCgramAddr | functionSet | displayControl | entryModeSet | illegal => exact .inl rfl

theorem step_AP_kept_or_lt (s t : State) (h : step s = .next t) : t.block.AP = s.block.AP ∨ t.block.AP < 80 := by
  rcases step_block_cases s t h with ht | ⟨tr, -, -, ht⟩ | ⟨-, -, ht⟩ | ⟨flags, -, -, ht⟩ <;> rw [ht]
  · exact .inl rfl
  · exact Block.after_AP_kept_or_lt _ _
  · exact .inl rfl
  · exact .inr (by decide : 0 < 80)

theorem step_entry_kept_or_lt (s t : State) (h : step s = .next t) (x : Nat) :
    t.block.RWT.entry x = s.block.RWT.entry x ∨ t.block.RWT.entry x < 80 := by
  rcases step_block_cases s t h with ht | ⟨tr, -, -, ht⟩ | ⟨-, -, ht⟩ | ⟨flags, -, -, ht⟩ <;> rw [ht]
  · exact .inl rfl
  · exact Block.after_entry_kept_or_lt _ _ x
  · exact .inl rfl
  · exact .inr (Rwt.canonical_entry_lt x)

theorem Block.reset_inRange (flags : ResetFlags) : (Block.reset flags).inRange :=
  (Block.inRange_iff _).mpr ⟨(by decide : 0 < 80), Rwt.canonical_entry_lt⟩

theorem step_inRange (s t : State) (h : step s = .next t) (hs : s.block.inRange) : t.block.inRange := by
  obtain ⟨hap, hrwt⟩ := (Block.inRange_iff _).mp hs
  refine (Block.inRange_iff _).mpr ⟨?_, fun x => ?_⟩
  · exact (step_AP_kept_or_lt s t h).elim (fun he => he ▸ hap) id
  · exact (step_entry_kept_or_lt s t h x).elim (fun he => he ▸ hrwt x) id

/-- Settles O40: a step keeps each address or reduces it modulo 80, so reset's range is an invariant of the reached states. -/
theorem pointerStaysInRange : Obligations.PointerStaysInRange :=
  ⟨step_AP_kept_or_lt, step_entry_kept_or_lt, Reached.block_induction Block.inRange Block.reset_inRange step_inRange⟩

/-! ### Entry mode (R27) -/

/-- Both data transactions advance a block that has the pointer, the table and the entry mode of the one before (R102). -/
theorem Block.after_data (k : Block) (i : Instr) (hi : i = .readData ∨ ∃ v, i = .writeData v) :
    (k.after i).AP = (k.AP + if k.ID then 1 else 79) % 80 ∧
    (k.after i).RWT = if k.SH then k.RWT.map (fun r => (r + if k.ID then 1 else 79) % 80) else k.RWT := by
  rcases hi with rfl | ⟨v, rfl⟩
  · exact ⟨k.advance_AP, k.advance_RWT⟩
  · exact ⟨(k.dataWrite v).advance_AP, (k.dataWrite v).advance_RWT⟩

/-- ENTRY_MODE_SET is the only instruction that writes ID and SH (R139). -/
theorem Block.after_entryMode (k : Block) (i : Instr) (hi : ∀ inc sh, i ≠ .entryModeSet inc sh) :
    (k.after i).ID = k.ID ∧ (k.after i).SH = k.SH := by
  cases i with
  | entryModeSet inc sh => exact absurd rfl (hi inc sh)
  | readData => exact ⟨k.advance_ID, k.advance_SH⟩
  | writeData v => exact ⟨(k.dataWrite v).advance_ID, (k.dataWrite v).advance_SH⟩
  | cursorControl sc rl => exact ⟨k.shift_ID sc rl, k.shift_SH sc rl⟩
  | readBusy | setDdramAddr | setCgramAddr | functionSet | displayControl | returnHome | clear | illegal =>
    exact ⟨rfl, rfl⟩

theorem step_entryMode (s t : State) (e : Event) (rest : List Event) (hs : s.events = e :: rest) (h : step s = .next t)
    (hmode : ∀ tr inc sh, e = .exec tr → decode tr ≠ .entryModeSet inc sh) (hreset : ∀ flags, e ≠ .powerOn flags) :
    t.block.ID = s.block.ID ∧ t.block.SH = s.block.SH := by
  rcases step_block_cases s t h with ht | ⟨tr, rest', he, ht⟩ | ⟨-, -, ht⟩ | ⟨flags, rest', he, -⟩
  · rw [ht]; exact ⟨rfl, rfl⟩
  · obtain ⟨rfl, -⟩ := List.cons.inj (hs.symm.trans he)
    rw [ht]; exact Block.after_entryMode _ _ fun inc sh => hmode tr inc sh rfl
  · rw [ht]; exact ⟨rfl, rfl⟩
  · exact absurd (List.cons.inj (hs.symm.trans he)).1 (hreset flags)

/-- Settles O34: the direction and the shift are those of `advance`, and no other event writes the two flags. -/
theorem entryModeGovernsDataTransactions : Obligations.EntryModeGovernsDataTransactions := by
  refine ⟨fun i s hi => ?_, step_entryMode⟩
  obtain ⟨r, hr⟩ := exec_eq_complete_after i s
  obtain ⟨hap, hrwt⟩ := Block.after_data s.block i hi
  refine ⟨_, hr, ?_, ?_, ?_, ?_⟩ <;> simp only [State.complete_block, hap, hrwt]
  · intro hid; simp [hid]
  · intro hid; simp [hid]
  · intro hsh; simp [hsh]
  · intro hsh x; rw [if_pos hsh, Rwt.entry_map]

end Sys2Proof.Machine

/-! ## The memories

DDRAM as the data transactions and CLEAR use it, and the character ROM (spec/20_memory.md). -/

namespace Sys2Proof.Machine

/-! ### Data reads (R60) -/

/-- Either direction of the advance leaves the pointer at another cell (R102). -/
theorem Block.advance_dataAddress_ne (k : Block) : k.dataAddress ≠ k.advance.dataAddress := by
  simp only [Block.dataAddress, Block.advance_AP, mod80_natCast]
  split <;> omega

/-- PROJECT is a pure read (R160): the block is the same after it. -/
theorem step_project_block (s t : State) (lines segments : Nat) (rest : List Event)
    (hs : s.events = .project lines segments :: rest) (h : step s = .next t) : t.block = s.block := by
  rcases step_block_cases s t h with ht | ⟨_, _, he, -⟩ | ⟨_, he, -⟩ | ⟨_, _, he, -⟩
  · exact ht
  all_goals cases hs.symm.trans he

/-- Settles O17: the first read advances the pointer to another cell, and that is the cell the second read answers. -/
theorem twoReadsUseTwoAddresses : Obligations.TwoReadsUseTwoAddresses := by
  refine ⟨fun s => ⟨_, _, exec_readData_eq s, exec_readData_eq _, s.block.advance_dataAddress_ne, ?_,
    s.block.advance_AP, ?_⟩, fun s => ⟨_, exec_readBusy_eq s, rfl⟩, step_project_block⟩
  · simp only [State.complete_outputs, State.complete_block, Block.dataRead, Block.advance_DDRAM]
  · intro hsh x
    rw [State.complete_block, Block.advance_RWT, if_pos hsh, Rwt.entry_map]

/-! ### The store's clear (R52) -/

/-- The cleared store lists no cell, and an unlisted cell reads as the space. -/
theorem memClear_read (a : Nat) : memClear.read a = Config.space := rfl

/-- The home that follows the store's clear does not touch DDRAM (R105, R141). -/
theorem Block.clearAll_DDRAM (k : Block) : k.clearAll.DDRAM = memClear := rfl

/-- Settles O30: after CLEAR the block's DDRAM is the cleared store. -/
theorem clearFillsEveryCell : Obligations.ClearFillsEveryCell := by
  refine ⟨fun a _ => memClear_read a, fun s a _ => ⟨_, exec_clear_eq s, ?_⟩⟩
  rw [State.complete_block, Block.clearAll_DDRAM, memClear_read]

/-! ### The character ROM (R56) -/

/-- In the mapped range the lookup shows the ROM. The space, which the lookup answers by itself, needs a ROM whose space is
blank. -/
theorem glyphOf_mapped (cfg : ProjectorConfig) (code : Byte) (hspace : cfg.cgrom 0x20 = blankGlyph)
    (hlo : 0x20 ≤ code.toNat) (hhi : code.toNat ≤ 0x7F) : glyphOf cfg code = cfg.cgrom code := by
  rcases Nat.lt_or_eq_of_le hlo with hlt | heq
  · rw [glyphOf, if_pos ⟨hlt, hhi⟩]
  · obtain rfl : code = Config.space := BitVec.eq_of_toNat_eq heq.symm
    rw [glyphOf_space, hspace]

/-- Settles O43: mapped codes, the unmapped codes on either side, and the space. -/
theorem characterRomLookup : Obligations.CharacterRomLookup := fun cfg code =>
  ⟨glyphOf_mapped cfg code, fun hlo => glyphOf_unmapped cfg code (.inl hlo),
    fun hhi => glyphOf_unmapped cfg code (.inr hhi), fun hcode => hcode ▸ glyphOf_space cfg⟩

end Sys2Proof.Machine

/-! ## Decoding

The most significant set bit of the data byte places the byte's value in one range of numbers. The bits from there up are the
opcode, which a row of the opcode table compares and an operand never reaches (spec/30_encoding.md R72, R78). -/

namespace Sys2Proof

/-! ### The most significant set bit and the byte's value -/

theorem getLsbD_of_toNat_lt (db : Byte) (k : Nat) (h : db.toNat < 2 ^ k) : db.getLsbD k = false :=
  Nat.testBit_lt_two_pow h

theorem getLsbD_of_le_toNat (db : Byte) (k : Nat) (hlo : 2 ^ k ≤ db.toNat) (hhi : db.toNat < 2 ^ (k + 1)) :
    db.getLsbD k = true :=
  Nat.testBit_of_two_pow_le_and_two_pow_add_one_gt hlo hhi

/-- The low bits of a byte, when the bits above them are worth `c` (R74). -/
theorem extractLsb'_eq_ofNat_sub (db : Byte) (k c : Nat) (hc : 2 ^ k ∣ c) (h : c ≤ db.toNat) :
    db.extractLsb' 0 k = BitVec.ofNat k (db.toNat - c) := by
  obtain ⟨q, rfl⟩ := hc
  apply BitVec.eq_of_toNat_eq
  rw [BitVec.extractLsb'_toNat, BitVec.toNat_ofNat, Nat.shiftRight_zero, Nat.sub_mul_mod h]

/-! ### The instruction of each range (R72, R73) -/

theorem decodeIr_setDdramAddr (db : Byte) (h : 128 ≤ db.toNat) :
    decodeIr db = .setDdramAddr (BitVec.ofNat 7 (db.toNat - 128)) := by
  rw [decodeIr, if_pos (getLsbD_of_le_toNat db 7 h db.isLt), extractLsb'_eq_ofNat_sub db 7 128 (by decide) h]

theorem decodeIr_setCgramAddr (db : Byte) (hlo : 64 ≤ db.toNat) (hhi : db.toNat < 128) :
    decodeIr db = .setCgramAddr (BitVec.ofNat 6 (db.toNat - 64)) := by
  rw [decodeIr, if_neg (Bool.eq_false_iff.mp (getLsbD_of_toNat_lt db 7 hhi)),
    if_pos (getLsbD_of_le_toNat db 6 hlo hhi), extractLsb'_eq_ofNat_sub db 6 64 (by decide) hlo]

theorem decodeIr_functionSet (db : Byte) (hlo : 32 ≤ db.toNat) (hhi : db.toNat < 64) :
    decodeIr db = .functionSet (db.toNat.testBit 4) (db.toNat.testBit 3) (db.toNat.testBit 2) := by
  simp (disch := omega) only [decodeIr, getLsbD_of_toNat_lt, getLsbD_of_le_toNat, Bool.false_eq_true, if_true, if_false]
  rfl

theorem decodeIr_cursorControl (db : Byte) (hlo : 16 ≤ db.toNat) (hhi : db.toNat < 32) :
    decodeIr db = .cursorControl (db.toNat.testBit 3) (db.toNat.testBit 2) := by
  simp (disch := omega) only [decodeIr, getLsbD_of_toNat_lt, getLsbD_of_le_toNat, Bool.false_eq_true, if_true, if_false]
  rfl

theorem decodeIr_displayControl (db : Byte) (hlo : 8 ≤ db.toNat) (hhi : db.toNat < 16) :
    decodeIr db = .displayControl (db.toNat.testBit 2) (db.toNat.testBit 1) (db.toNat.testBit 0) := by
  simp (disch := omega) only [decodeIr, getLsbD_of_toNat_lt, getLsbD_of_le_toNat, Bool.false_eq_true, if_true, if_false]
  rfl

theorem decodeIr_entryModeSet (db : Byte) (hlo : 4 ≤ db.toNat) (hhi : db.toNat < 8) :
    decodeIr db = .entryModeSet (db.toNat.testBit 1) (db.toNat.testBit 0) := by
  simp (disch := omega) only [decodeIr, getLsbD_of_toNat_lt, getLsbD_of_le_toNat, Bool.false_eq_true, if_true, if_false]
  rfl

theorem decodeIr_returnHome (db : Byte) (hlo : 2 ≤ db.toNat) (hhi : db.toNat < 4) : decodeIr db = .returnHome := by
  simp (disch := omega) only [decodeIr, getLsbD_of_toNat_lt, getLsbD_of_le_toNat, Bool.false_eq_true, if_true, if_false]

theorem decodeIr_clear (db : Byte) (h : db.toNat = 1) : decodeIr db = .clear := by
  obtain rfl : db = 0x01 := BitVec.eq_of_toNat_eq h
  rfl

theorem decodeIr_illegal (db : Byte) (h : db.toNat = 0) : decodeIr db = .illegal := by
  obtain rfl : db = 0x00 := BitVec.eq_of_toNat_eq h
  rfl

/-! ### The first level (R71) -/

theorem decode_instructionWrite (t : Transaction) (hrs : t.rs = false) (hrw : t.rw = false) : decode t = decodeIr t.db := by
  rw [decode, hrs, hrw]

/-- The priority decoder answers none of the other three classes. -/
theorem decodeIr_ne_otherClass (db : Byte) :
    decodeIr db ≠ .readData ∧ (∀ v, decodeIr db ≠ .writeData v) ∧ decodeIr db ≠ .readBusy := by
  unfold decodeIr
  split_ifs <;> simp

/-- Settles O3: one lemma per range, each about the highest bit set and the bits above it. -/
theorem mostSignificantBitSelects : Obligations.MostSignificantBitSelects := by
  rintro t n hrs hrw rfl
  rw [decode_instructionWrite t hrs hrw]
  exact ⟨decodeIr_setDdramAddr _, decodeIr_setCgramAddr _, decodeIr_functionSet _, decodeIr_cursorControl _,
    decodeIr_displayControl _, decodeIr_entryModeSet _, decodeIr_returnHome _, decodeIr_clear _, decodeIr_illegal _⟩

/-- Settles O2: the four classes by `rs` and `rw`; the priority decoder never answers one of the other three. -/
theorem firstLevelDecode : Obligations.FirstLevelDecode := by
  rintro ⟨rs, rw, db⟩
  obtain ⟨hread, hwrite, hbusy⟩ := decodeIr_ne_otherClass db
  rcases rs with _ | _ <;> rcases rw with _ | _
  · simp [decode, hread, hwrite, hbusy]
  · simp [decode]
  · simp [decode, eq_comm]
  · simp [decode]

/-! ### The opcode table (R77, R78) -/

/-- The number of low bits of the word below the instruction's opcode (R78): the operand field, don't-care bits included. -/
def Instr.fieldBits : Instr → Nat
  | .readData | .writeData _ | .readBusy => 8
  | .setDdramAddr _ => 7
  | .setCgramAddr _ => 6
  | .functionSet _ _ _ => 5
  | .cursorControl _ _ => 4
  | .displayControl _ _ _ => 3
  | .entryModeSet _ _ => 2
  | .returnHome => 1
  | .clear | .illegal => 0

/-- The bits of the word above the field, as a number: `rs`, `rw` and the opcode of R72. -/
def Instr.opcode : Instr → Nat
  | .readData => 3
  | .writeData _ => 2
  | .readBusy | .setDdramAddr _ | .setCgramAddr _ | .functionSet _ _ _ | .cursorControl _ _ | .displayControl _ _ _
  | .entryModeSet _ _ | .returnHome | .clear => 1
  | .illegal => 0

/-- The instruction's row of the opcode table: every word with its opcode (`Instr.row_mem`). -/
def Instr.row (i : Instr) : OpcodeRow :=
  { mnemonic := i.mnemonic
    mask := BitVec.allOnes 10 <<< i.fieldBits
    pattern := BitVec.ofNat 10 (i.opcode * 2 ^ i.fieldBits) }

theorem Instr.row_mem (i : Instr) : i.row ∈ opcodeTable := by
  cases i <;> simp [Instr.row, opcodeTable, Instr.mnemonic, Instr.fieldBits, Instr.opcode]

theorem Instr.opcode_lt (i : Instr) : i.opcode * 2 ^ i.fieldBits < 2 ^ 10 := by
  cases i <;> simp [Instr.opcode, Instr.fieldBits]

/-- A row's mask keeps the bits above the field, so a word belongs to the row when those bits are the opcode. -/
theorem Instr.row_accepts_iff (i : Instr) (w : Word) :
    i.row.accepts w = true ↔ w.toNat / 2 ^ i.fieldBits = i.opcode := by
  have hle : w.toNat / 2 ^ i.fieldBits * 2 ^ i.fieldBits < 2 ^ 10 := (Nat.div_mul_le_self _ _).trans_lt w.isLt
  rw [OpcodeRow.accepts, beq_iff_eq, Instr.row, ← BitVec.shiftLeft_ushiftRight, ← BitVec.toNat_inj, BitVec.toNat_shiftLeft,
    BitVec.toNat_ushiftRight, BitVec.toNat_ofNat, Nat.shiftLeft_eq, Nat.shiftRight_eq_div_pow, Nat.mod_eq_of_lt hle,
    Nat.mod_eq_of_lt i.opcode_lt, Nat.mul_left_inj (Nat.two_pow_pos _).ne']

theorem Transaction.pack_toNat (t : Transaction) : t.pack.toNat = t.rs.toNat * 512 + t.rw.toNat * 256 + t.db.toNat := by
  rw [Transaction.pack, BitVec.toNat_append, ← Nat.shiftLeft_add_eq_or_of_lt t.db.isLt, BitVec.toNat_append,
    ← Nat.shiftLeft_add_eq_or_of_lt (BitVec.ofBool t.rw).isLt, BitVec.toNat_ofBool, BitVec.toNat_ofBool, Nat.shiftLeft_eq,
    Nat.shiftLeft_eq]
  omega

/-- The byte of an instruction-register write begins with the opcode of the instruction it decodes to (R72). -/
theorem decodeIr_opcode (db : Byte) : db.toNat / 2 ^ (decodeIr db).fieldBits = (decodeIr db).opcode := by
  have hlt := db.isLt
  obtain h | ⟨hlo, hhi⟩ | ⟨hlo, hhi⟩ | ⟨hlo, hhi⟩ | ⟨hlo, hhi⟩ | ⟨hlo, hhi⟩ | ⟨hlo, hhi⟩ | h | h :
      128 ≤ db.toNat ∨ (64 ≤ db.toNat ∧ db.toNat < 128) ∨ (32 ≤ db.toNat ∧ db.toNat < 64) ∨
      (16 ≤ db.toNat ∧ db.toNat < 32) ∨ (8 ≤ db.toNat ∧ db.toNat < 16) ∨ (4 ≤ db.toNat ∧ db.toNat < 8) ∨
      (2 ≤ db.toNat ∧ db.toNat < 4) ∨ db.toNat = 1 ∨ db.toNat = 0 := by omega
  · rw [decodeIr_setDdramAddr db h, Instr.fieldBits, Instr.opcode]; omega
  · rw [decodeIr_setCgramAddr db hlo hhi, Instr.fieldBits, Instr.opcode]; omega
  · rw [decodeIr_functionSet db hlo hhi, Instr.fieldBits, Instr.opcode]; omega
  · rw [decodeIr_cursorControl db hlo hhi, Instr.fieldBits, Instr.opcode]; omega
  · rw [decodeIr_displayControl db hlo hhi, Instr.fieldBits, Instr.opcode]; omega
  · rw [decodeIr_entryModeSet db hlo hhi, Instr.fieldBits, Instr.opcode]; omega
  · rw [decodeIr_returnHome db hlo hhi, Instr.fieldBits, Instr.opcode]; omega
  · rw [decodeIr_clear db h, h]; rfl
  · rw [decodeIr_illegal db h, h]; rfl

/-- Every word belongs to the row of the instruction it decodes to. -/
theorem decode_row_accepts (t : Transaction) : (decode t).row.accepts t.pack = true := by
  rw [Instr.row_accepts_iff, Transaction.pack_toNat]
  have hlt := t.db.isLt
  obtain ⟨rs, rw, db⟩ := t
  rcases rs with _ | _ <;> rcases rw with _ | _ <;> simp only [decode, Bool.toNat_true, Bool.toNat_false]
  · simpa using decodeIr_opcode db
  all_goals rw [Instr.fieldBits, Instr.opcode]; omega

/-- No two rows agree on the bits that both of them fix. -/
theorem opcodeTable_rows_conflict :
    ∀ r ∈ opcodeTable, ∀ q ∈ opcodeTable, r.pattern &&& q.mask = q.pattern &&& r.mask → r = q := by
  decide

/-- A word belongs to at most one row. -/
theorem OpcodeRow.eq_of_accepts {r q : OpcodeRow} {w : Word} (hr : r ∈ opcodeTable) (hq : q ∈ opcodeTable)
    (hrw : r.accepts w = true) (hqw : q.accepts w = true) : r = q := by
  apply opcodeTable_rows_conflict r hr q hq
  rw [← beq_iff_eq.mp hrw, ← beq_iff_eq.mp hqw, BitVec.and_assoc, BitVec.and_assoc, BitVec.and_comm r.mask]

/-- ILLEGAL has all ten bits for its opcode, and they are zero (R77). -/
theorem decode_eq_illegal_iff (t : Transaction) :
    decode t = .illegal ↔ t.rs = false ∧ t.rw = false ∧ t.db = 0x00 := by
  constructor
  · intro h
    have hword : t.pack.toNat / 2 ^ 0 = 0 := (Instr.row_accepts_iff .illegal _).mp (h ▸ decode_row_accepts t)
    rw [Transaction.pack_toNat, Nat.pow_zero, Nat.div_one] at hword
    obtain ⟨⟨hrs, hrw⟩, hdb⟩ : (t.rs.toNat = 0 ∧ t.rw.toNat = 0) ∧ t.db.toNat = 0 := by omega
    exact ⟨Bool.toNat_eq_zero.mp hrs, Bool.toNat_eq_zero.mp hrw, BitVec.eq_of_toNat_eq hdb⟩
  · rintro ⟨hrs, hrw, hdb⟩
    rw [decode_instructionWrite t hrs hrw, hdb]
    rfl

end Sys2Proof

namespace Sys2Proof.Machine

/-- Settles O4: the row is that of the decoded instruction, and two rows that accept one word are the same row. -/
theorem everyWordHasExactlyOneRow : Obligations.EveryWordHasExactlyOneRow := by
  refine ⟨fun t => ⟨decode_eq_illegal_iff t, (decode t).row, (decode t).row_mem, decode_row_accepts t, rfl, ?_⟩,
    exec_illegal_eq, exec_readBusy_eq⟩
  intro q hq hacc
  exact OpcodeRow.eq_of_accepts hq (decode t).row_mem hacc (decode_row_accepts t)

end Sys2Proof.Machine

/-! ## The addressing engine

The pointer and the table entries as signed moves modulo 80 (spec/40_addressing_engine.md). -/

namespace Sys2Proof.Machine

/-! ### The window follows the pointer (R102) -/

/-- Two numbers that move by the same amount modulo 80 keep their distance modulo 80. -/
theorem mod80_sub_mod80_add (a b d : Int) :
    mod80 ((mod80 (a + d) : Int) - mod80 (b + d)) = mod80 (a - b) := by
  unfold mod80; omega

/-- The pointer after a data transaction, as the signed move ID gives. -/
theorem Block.after_data_AP_stepBy (k : Block) (i : Instr) (hi : i = .readData ∨ ∃ v, i = .writeData v) :
    (k.after i).AP = mod80 ((k.AP : Int) + stepBy k.ID) := by
  rw [(Block.after_data k i hi).1, mod80_stepBy]

/-- A table entry after a data transaction with SH set, as the same signed move. -/
theorem Block.after_data_entry_stepBy (k : Block) (i : Instr) (hi : i = .readData ∨ ∃ v, i = .writeData v)
    (hsh : k.SH = true) (x : Nat) : (k.after i).RWT.entry x = mod80 ((k.RWT.entry x : Int) + stepBy k.ID) := by
  rw [(Block.after_data k i hi).2, if_pos hsh, Rwt.entry_map, mod80_stepBy]

/-- Settles O16: the pointer and, with SH set, every table entry move by the one amount `stepBy ID`, which cancels in their
difference. -/
theorem windowFollowsThePointer : Obligations.WindowFollowsThePointer := by
  intro i s hi
  obtain ⟨r, hr⟩ := exec_eq_complete_after i s
  have hap := s.block.after_data_AP_stepBy i hi
  refine ⟨_, hr, hap, fun hsh => ?_, fun hsh x => ?_⟩
  · rw [State.complete_block, (Block.after_data s.block i hi).2, hsh, if_neg Bool.false_ne_true]
  · have hentry := s.block.after_data_entry_stepBy i hi hsh x
    refine ⟨hentry, ?_⟩
    rw [State.complete_block, hap, hentry]
    exact mod80_sub_mod80_add ..

end Sys2Proof.Machine

/-! ## The data register

READ_DATA and the writers of DDRAM (spec/41_data_register.md). -/

namespace Sys2Proof.Machine

/-! ### READ_DATA (R121) -/

/-- The two opcode bits of READ_DATA's row are `rs` and `rw`, so every word of the row is a data read (R71, R78). -/
theorem decode_eq_readData_of_pack (t : Transaction) (h : t.pack &&& 0x300 = 0x300) : decode t = .readData := by
  have hword : t.pack.toNat / 2 ^ 8 = 3 := (Instr.row_accepts_iff .readData _).mp (beq_iff_eq.mpr h)
  rw [Transaction.pack_toNat] at hword
  have hdb := t.db.isLt
  obtain ⟨hrs, hrw⟩ : t.rs.toNat = 1 ∧ t.rw.toNat = 1 := by
    have := t.rs.toNat_le
    have := t.rw.toNat_le
    omega
  rw [decode, Bool.toNat_eq_one.mp hrs, Bool.toNat_eq_one.mp hrw]

/-- `advance` writes no field but the pointer and the table (R102). -/
theorem Block.advance_frame (k : Block) : { k.advance with AP := k.AP, RWT := k.RWT } = k := by
  rw [Block.advance_eq]

/-- Settles O15: the response holds the byte of the block before `advance`, and `advance` is all that happens to the block. -/
theorem readDataReturnsAndAdvances : Obligations.ReadDataReturnsAndAdvances := by
  refine ⟨decode_eq_readData_of_pack, fun s => ⟨_, exec_readData_eq s, rfl, s.block.advance_AP, fun x => ?_,
    s.block.advance_frame, rfl⟩⟩
  rw [State.complete_block, Block.advance_RWT]
  split
  · rw [Rwt.entry_map]
  · rfl

/-! ### The writers of DDRAM (R123) -/

@[simp] theorem Block.shift_DDRAM (k : Block) (sc rl : Bool) : (k.shift sc rl).DDRAM = k.DDRAM := by
  rw [Block.shift_eq]; cases sc <;> rfl

theorem Block.after_DDRAM (k : Block) (i : Instr) (hwrite : ∀ v, i ≠ .writeData v) (hclear : i ≠ .clear) :
    (k.after i).DDRAM = k.DDRAM := by
  cases i with
  | writeData v => exact absurd rfl (hwrite v)
  | clear => exact absurd rfl hclear
  | readData => exact k.advance_DDRAM
  | cursorControl sc rl => exact k.shift_DDRAM sc rl
  | readBusy | setDdramAddr | setCgramAddr | functionSet | displayControl | entryModeSet | returnHome | illegal => rfl

/-- An event that is neither an EXEC nor the reset event leaves DDRAM as it is: of these TICK alone writes, and it writes CV. -/
theorem step_DDRAM_of_not_exec (s t : State) (e : Event) (rest : List Event) (hs : s.events = e :: rest)
    (h : step s = .next t) (hexec : ∀ tr, e ≠ .exec tr) (hreset : ∀ flags, e ≠ .powerOn flags) :
    t.block.DDRAM = s.block.DDRAM := by
  rcases step_block_cases s t h with ht | ⟨tr, _, he, -⟩ | ⟨_, -, ht⟩ | ⟨flags, _, he, -⟩
  · rw [ht]
  · exact absurd (List.cons.inj (hs.symm.trans he)).1 (hexec tr)
  · rw [ht, Block.tick_DDRAM]
  · exact absurd (List.cons.inj (hs.symm.trans he)).1 (hreset flags)

/-- Settles O33: the block after an instruction is `Block.after`, which writes DDRAM in two arms only; the other events are
those of `step_block_cases`. -/
theorem ddramChangesOnlyByWriteAndClear : Obligations.DdramChangesOnlyByWriteAndClear := by
  refine ⟨fun i s t h hwrite hclear => ?_, step_DDRAM_of_not_exec⟩
  rw [exec_block i s t h, Block.after_DDRAM s.block i hwrite hclear]

end Sys2Proof.Machine

/-! ## The instruction register

The words of one row of the opcode table, and what its instruction does to the state (spec/42_instruction_register.md). -/

namespace Sys2Proof

/-! ### From a row of the opcode table to the decoded instruction (R72, R78) -/

/-- A word with the opcode bits of an instruction decodes to an instruction of the same row. -/
theorem decode_mnemonic_of_row (i : Instr) (t : Transaction) (h : t.pack &&& i.row.mask = i.row.pattern) :
    (decode t).mnemonic = i.mnemonic :=
  congrArg OpcodeRow.mnemonic
    (OpcodeRow.eq_of_accepts (decode t).row_mem i.row_mem (decode_row_accepts t) (beq_iff_eq.mpr h))

/-- An instruction without operands is the only one of its mnemonic. -/
theorem Instr.eq_of_mnemonic_eq (i j : Instr)
    (hi : i = .readData ∨ i = .readBusy ∨ i = .returnHome ∨ i = .clear ∨ i = .illegal) (h : j.mnemonic = i.mnemonic) :
    j = i := by
  rcases hi with rfl | rfl | rfl | rfl | rfl <;> cases j <;> simp [Instr.mnemonic] at h ⊢

/-- Every word of the row of an instruction without operands decodes to that instruction. -/
theorem decode_eq_of_row (i : Instr) (hi : i = .readData ∨ i = .readBusy ∨ i = .returnHome ∨ i = .clear ∨ i = .illegal)
    (t : Transaction) (h : t.pack &&& i.row.mask = i.row.pattern) : decode t = i :=
  Instr.eq_of_mnemonic_eq i (decode t) hi (decode_mnemonic_of_row i t h)

/-- In the row of an instruction-register write whose opcode is a single 1 above the field, `rs` and `rw` are 0 and that 1 is
the byte's most significant set bit. -/
theorem decode_eq_decodeIr_of_row (i : Instr) (hop : i.opcode = 1) (hfield : i.fieldBits < 8) (t : Transaction)
    (h : t.pack &&& i.row.mask = i.row.pattern) :
    decode t = decodeIr t.db ∧ 2 ^ i.fieldBits ≤ t.db.toNat ∧ t.db.toNat < 2 ^ (i.fieldBits + 1) := by
  have hword : t.pack.toNat / 2 ^ i.fieldBits = 1 := hop ▸ (Instr.row_accepts_iff i _).mp (beq_iff_eq.mpr h)
  have hpos : 0 < 2 ^ i.fieldBits := Nat.two_pow_pos _
  obtain ⟨hlo, hhi⟩ := (Nat.div_eq_iff hpos).mp hword
  have hbyte : 2 ^ (i.fieldBits + 1) ≤ 2 ^ 8 := Nat.pow_le_pow_right (by decide) hfield
  rw [Transaction.pack_toNat] at hlo hhi
  rw [pow_succ] at hbyte ⊢
  obtain ⟨hrs, hrw⟩ : t.rs.toNat = 0 ∧ t.rw.toNat = 0 := by omega
  exact ⟨decode_instructionWrite t (Bool.toNat_eq_zero.mp hrs) (Bool.toNat_eq_zero.mp hrw), by omega, by omega⟩

theorem decode_eq_setDdramAddr_of_row (t : Transaction) (h : t.pack &&& 0x380 = 0x080) :
    decode t = .setDdramAddr (BitVec.ofNat 7 (t.db.toNat % 128)) := by
  obtain ⟨hdecode, hlo, hhi⟩ : decode t = decodeIr t.db ∧ 128 ≤ t.db.toNat ∧ t.db.toNat < 256 :=
    decode_eq_decodeIr_of_row (.setDdramAddr 0) rfl (by decide) t h
  have hfield : t.db.toNat % 128 = t.db.toNat - 128 := by omega
  rw [hdecode, decodeIr_setDdramAddr _ hlo, hfield]

theorem decode_eq_cursorControl_of_row (t : Transaction) (h : t.pack &&& 0x3F0 = 0x010) :
    decode t = .cursorControl (t.db.toNat.testBit 3) (t.db.toNat.testBit 2) := by
  obtain ⟨hdecode, hlo, hhi⟩ := decode_eq_decodeIr_of_row (.cursorControl false false) rfl (by decide) t h
  rw [hdecode, decodeIr_cursorControl _ hlo hhi]

theorem decode_eq_entryModeSet_of_row (t : Transaction) (h : t.pack &&& 0x3FC = 0x004) :
    decode t = .entryModeSet (t.db.toNat.testBit 1) (t.db.toNat.testBit 0) := by
  obtain ⟨hdecode, hlo, hhi⟩ := decode_eq_decodeIr_of_row (.entryModeSet false false) rfl (by decide) t h
  rw [hdecode, decodeIr_entryModeSet _ hlo hhi]

end Sys2Proof

namespace Sys2Proof.Machine

/-- A step on an EXEC runs the instruction that its transaction decodes to (R71). -/
theorem step_exec (s : State) (tr : Transaction) (rest : List Event) (hs : s.events = .exec tr :: rest) :
    step s = exec (decode tr) { s with events := rest } :=
  step_event s _ rest hs

/-! ### The log of outputs is never read (R181) -/

/-- An event is answered the same way whatever the observers saw before it; only the log that it leaves differs. -/
theorem handle_of_outputs (e : Event) (s u : State) (log : List Output) (h : handle e s = .next u) :
    ∃ log', handle e { s with outputs := log } = .next { u with outputs := log' } := by
  cases e with
  | exec tr =>
    obtain ⟨r, hr⟩ := exec_eq_complete_after (decode tr) s
    obtain ⟨r', hr'⟩ := exec_eq_complete_after (decode tr) { s with outputs := log }
    cases hr.symm.trans h
    exact ⟨_, hr'⟩
  | project lines segments =>
    simp only [handle, onProject] at h ⊢
    split at h
    · cases h; exact ⟨_, if_pos ‹_›⟩
    · cases h
  | cursorPosition lines =>
    simp only [handle, onCursorPosition] at h ⊢
    split at h
    · cases h; exact ⟨_, if_pos ‹_›⟩
    · cases h
  | tick | cursorVisible | cursorActive | updateDisplay | powerOn => cases h; exact ⟨_, rfl⟩
  | overlap => cases h

/-- A step that answers does so whatever the log holds, and leaves the same block and the same events to come. -/
theorem step_of_outputs (s u : State) (log : List Output) (h : step s = .next u) :
    ∃ log', step { s with outputs := log } = .next { u with outputs := log' } := by
  rcases s with ⟨k, _ | ⟨e, rest⟩, outs⟩
  · cases h; exact ⟨log, rfl⟩
  · exact handle_of_outputs e ⟨k, rest, outs⟩ u log h

/-! ### The instructions' effects and the one-hot bytes (R130 to R143) -/

/-- Settles O24: both cases of `shift`; neither ID nor SH stands in its equation. -/
theorem cursorControlMovesTableOrPointer : Obligations.CursorControlMovesTableOrPointer := by
  refine ⟨decode_eq_cursorControl_of_row, fun rl s => ?_, fun rl s => ?_⟩
  · rw [exec_cursorControl_eq, Block.shift_eq]; rfl
  · rw [exec_cursorControl_eq, Block.shift_eq]; rfl

/-- Settles O27: ENTRY_MODE_SET writes the two flags, and `Block.after` of every other instruction keeps them. -/
theorem entryModeSetPersists : Obligations.EntryModeSetPersists := by
  refine ⟨decode_eq_entryModeSet_of_row, exec_entryModeSet_eq, fun i s t hi h => ?_⟩
  rw [exec_block i s t h]
  exact s.block.after_entryMode i hi

/-- Settles O31: ILLEGAL writes the log alone, and no event reads the log, so the next one answers as if ILLEGAL had not been
issued. -/
theorem illegalChangesNothing : Obligations.IllegalChangesNothing := by
  refine ⟨decode_eq_of_row .illegal (by simp), exec_illegal_eq, fun s u rest hs hu => ?_⟩
  obtain ⟨log', hnext⟩ := step_of_outputs { s with events := rest } u (.response .illegal :: s.outputs) hu
  exact ⟨_, _, (step_exec s _ rest hs).trans (exec_illegal_eq _), hnext, rfl, rfl⟩

/-- Settles O1: the step runs the decoded instruction, and the priority decoder, run on each of the nine bytes, answers
the named operation. -/
theorem oneHotBytesDispatch : Obligations.OneHotBytesDispatch := by
  intro s rest b hs
  rw [step_exec s _ rest hs]
  refine ⟨?_, ?_, ?_, ?_, ?_, ?_, ?_, ?_, ?_⟩ <;> rintro rfl <;> rfl

/-- Settles O20: READ_BUSY is alone in its row, and it completes with the block it found. -/
theorem readBusyReturnsZero : Obligations.ReadBusyReturnsZero :=
  ⟨decode_eq_of_row .readBusy (by simp), exec_readBusy_eq⟩

/-- Settles O21: the field of the word's row, and the pointer reduced modulo 80 (R101). -/
theorem setDdramAddrSetsThePointer : Obligations.SetDdramAddrSetsThePointer :=
  ⟨decode_eq_setDdramAddr_of_row, exec_setDdramAddr_eq⟩

/-- Settles O28: RETURN_HOME is alone in its row, and `resetHome` writes the pointer and the canonical table (R105). -/
theorem returnHomeRestoresPointerAndTable : Obligations.ReturnHomeRestoresPointerAndTable :=
  ⟨decode_eq_of_row .returnHome (by simp), exec_returnHome_eq⟩

end Sys2Proof.Machine

/-! ## The projector

What the projector's accessors show (spec/43_projector.md). -/

namespace Sys2Proof.Machine

/-! ### The accessors (R112, R167) -/

theorem linesInRange_iff (lines : Nat) : linesInRange lines = true ↔ 1 ≤ lines ∧ lines ≤ 4 := by
  simp [linesInRange]

/-- With 1 to 4 lines, `cursor_position` is answered. -/
theorem onCursorPosition_of_inRange (lines : Nat) (s : State) (hlo : 1 ≤ lines) (hhi : lines ≤ 4) :
    onCursorPosition lines s =
      .next (s.observe (.cursorPosition (s.block.cursorPosition lines).1 (s.block.cursorPosition lines).2)) :=
  if_pos ((linesInRange_iff lines).mpr ⟨hlo, hhi⟩)

/-- Settles O50: each accessor's event is handled by adding one value to the log, `cursor_position` under its range check. -/
theorem accessorsArePureReads : Obligations.AccessorsArePureReads := by
  refine fun s rest => ⟨fun hs => ?visible, fun hs => ?active, fun lines hlo hhi hs => ?position⟩
  case visible => exact step_event s .cursorVisible rest hs
  case active => exact step_event s .cursorActive rest hs
  case position =>
    exact (step_event s (.cursorPosition lines) rest hs).trans
      (onCursorPosition_of_inRange lines { s with events := rest } hlo hhi)

end Sys2Proof.Machine

/-! ## What an event does

A step takes one event. What the event does to the block and what observers see of it are functions of the block alone, so an
answered step, and a run of answered events, is one equation (spec/20_memory.md R59, R61). -/

namespace Sys2Proof.Machine

/-- The response of an instruction (D2). -/
def Block.response (k : Block) : Instr → Response
  | .readData => .data k.dataRead
  | .readBusy => .data Config.busyReadValue
  | .illegal => .illegal
  | .writeData _ | .setDdramAddr _ | .setCgramAddr _ | .functionSet _ _ _ | .cursorControl _ _ | .displayControl _ _ _
  | .entryModeSet _ _ | .returnHome | .clear => .none

/-- Every instruction completes with `Block.after` and `Block.response`. -/
theorem exec_eq (i : Instr) (s : State) : exec i s = .next (s.complete (s.block.after i) (s.block.response i)) := by
  cases i <;> rfl

/-- The block after an event. -/
def Block.afterEvent (k : Block) : Event → Block
  | .exec tr => k.after (decode tr)
  | .tick => k.tick
  | .powerOn flags => Block.reset flags
  | .project _ _ | .cursorPosition _ | .cursorVisible | .cursorActive | .updateDisplay _ _ | .overlap => k

/-- What observers see of an event (R190): at most one output. -/
def Block.seen (k : Block) : Event → List Output
  | .exec tr => [.response (k.response (decode tr))]
  | .project lines segments => [.grid (k.project Config.projector lines segments)]
  | .cursorPosition lines => [.cursorPosition (k.cursorPosition lines).1 (k.cursorPosition lines).2]
  | .cursorVisible => [.cursorVisible k.CV]
  | .cursorActive => [.cursorActive k.C]
  | .tick | .powerOn _ | .updateDisplay _ _ | .overlap => []

/-- The state after an event that is answered. -/
def State.answer (s : State) (e : Event) : State :=
  { block := s.block.afterEvent e, events := s.events, outputs := s.block.seen e ++ s.outputs }

@[simp] theorem State.answer_block (s : State) (e : Event) : (s.answer e).block = s.block.afterEvent e := rfl
@[simp] theorem State.answer_events (s : State) (e : Event) : (s.answer e).events = s.events := rfl
@[simp] theorem State.answer_outputs (s : State) (e : Event) : (s.answer e).outputs = s.block.seen e ++ s.outputs := rfl

/-- An event with a meaning is answered, in every state. -/
theorem handle_of_wellFormed (e : Event) (s : State) (he : e.wellFormed = true) : handle e s = .next (s.answer e) := by
  cases e with
  | exec tr => exact exec_eq (decode tr) s
  | project lines segments => exact if_pos he
  | cursorPosition lines => exact if_pos he
  | tick | cursorVisible | cursorActive | updateDisplay | powerOn => rfl
  | overlap => cases he

/-- An event without a meaning is refused, in every state. -/
theorem handle_of_not_wellFormed (e : Event) (s : State) (he : e.wellFormed = false) : ∃ r, handle e s = .refused r := by
  cases e with
  | project lines segments => exact ⟨_, if_neg (Bool.eq_false_iff.mp he)⟩
  | cursorPosition lines => exact ⟨_, if_neg (Bool.eq_false_iff.mp he)⟩
  | overlap => exact ⟨_, rfl⟩
  | exec | tick | cursorVisible | cursorActive | updateDisplay | powerOn => cases he

theorem step_of_wellFormed (s : State) (e : Event) (rest : List Event) (hs : s.events = e :: rest)
    (he : e.wellFormed = true) : step s = .next ({ s with events := rest }.answer e) := by
  rw [step_event s e rest hs, handle_of_wellFormed e _ he]

theorem step_of_not_wellFormed (s : State) (e : Event) (rest : List Event) (hs : s.events = e :: rest)
    (he : e.wellFormed = false) : ∃ r, step s = .refused r := by
  rw [step_event s e rest hs]
  exact handle_of_not_wellFormed e _ he

/-- What an answered step is: a rest, or the answer of the first event, which has a meaning. -/
theorem step_answer_cases (s t : State) (h : step s = .next t) :
    (s.events = [] ∧ t = s) ∨
    ∃ e rest, s.events = e :: rest ∧ e.wellFormed = true ∧ t = { s with events := rest }.answer e := by
  cases hs : s.events with
  | nil =>
    rw [step_idle s hs] at h
    cases h; exact .inl ⟨rfl, rfl⟩
  | cons e rest =>
    cases he : e.wellFormed with
    | true =>
      rw [step_of_wellFormed s e rest hs he] at h
      cases h; exact .inr ⟨e, rest, rfl, he, rfl⟩
    | false =>
      obtain ⟨r, hr⟩ := step_of_not_wellFormed s e rest hs he
      cases hr.symm.trans h

/-- A step on a given event, answered. -/
theorem step_answer (s t : State) (e : Event) (rest : List Event) (hs : s.events = e :: rest) (h : step s = .next t) :
    t = { s with events := rest }.answer e := by
  rcases step_answer_cases s t h with ⟨hnil, -⟩ | ⟨e', rest', hs', -, rfl⟩
  · cases hs.symm.trans hnil
  · cases hs.symm.trans hs'; rfl

/-! ### Runs of events -/

/-- A run over events that all have a meaning answers them one after the other. -/
theorem run_events (es : List Event) (s : State) (rest : List Event) (hes : ∀ e ∈ es, e.wellFormed = true)
    (hs : s.events = es ++ rest) :
    Host.Core.run core es.length s = .next (es.foldl State.answer { s with events := rest } : State) := by
  induction es generalizing s with
  | nil => obtain ⟨k, events, outputs⟩ := s; cases hs; rfl
  | cons e es ih =>
    have hstep := step_of_wellFormed s e (es ++ rest) hs (hes e List.mem_cons_self)
    rw [List.length_cons, run_succ es.length s _ hstep, ih _ (fun d hd => hes d (List.mem_cons_of_mem e hd)) rfl]
    rfl

theorem foldl_answer_events (es : List Event) (s : State) : (es.foldl State.answer s).events = s.events := by
  induction es generalizing s with
  | nil => rfl
  | cons e es ih => exact ih (s.answer e)

theorem foldl_answer_block (es : List Event) (s : State) :
    (es.foldl State.answer s).block = es.foldl Block.afterEvent s.block := by
  induction es generalizing s with
  | nil => rfl
  | cons e es ih => exact ih (s.answer e)

theorem foldl_answer_outputs_of_unseen (es : List Event) (s : State) (h : ∀ e ∈ es, ∀ k : Block, k.seen e = []) :
    (es.foldl State.answer s).outputs = s.outputs := by
  induction es generalizing s with
  | nil => rfl
  | cons e es ih =>
    rw [List.foldl_cons, ih _ fun d hd => h d (List.mem_cons_of_mem e hd), State.answer_outputs,
      h e List.mem_cons_self, List.nil_append]

/-! ### One event a step, whole -/

/-- Settles O9: an EXEC is handled by `exec`, a placed word is the first event, and no event leaves nothing to do. -/
theorem stepRunsTheDecodedInstruction : Obligations.StepRunsTheDecodedInstruction := by
  refine ⟨step_exec, fun s w => ?_, step_idle⟩
  have hmod : w.toNat % 2 ^ 16 = w.toNat := Nat.mod_eq_of_lt (w.isLt.trans (by decide))
  rw [State.withFetchWord, hmod, if_pos w.isLt, BitVec.ofNat_toNat, BitVec.setWidth_eq]
  exact step_exec _ _ s.events rfl

theorem Block.seen_eq_nil_or_singleton (k : Block) (e : Event) : k.seen e = [] ∨ ∃ o, k.seen e = [o] := by
  cases e with
  | tick | powerOn | updateDisplay | overlap => exact .inl rfl
  | exec | project | cursorPosition | cursorVisible | cursorActive => exact .inr ⟨_, rfl⟩

/-- Settles O10: the answer of an event keeps the events to come and adds `Block.seen`, at most one output. -/
theorem oneEventAStep : Obligations.OneEventAStep := by
  intro s t h
  refine (step_answer_cases s t h).imp id ?_
  rintro ⟨e, rest, hs, -, rfl⟩
  refine ⟨e, hs, ?_, ?_⟩
  · rintro tr rfl
    exact ⟨_, rfl⟩
  · refine (s.block.seen_eq_nil_or_singleton e).imp (fun hnone => ?_) fun ⟨o, ho⟩ => ⟨o, ?_⟩
    · rw [State.answer_outputs, hnone]; rfl
    · rw [State.answer_outputs, ho]; rfl

/-- Settles O11: `Block.afterEvent` of the other events is the block itself. -/
theorem blockChangesOnlyAtExecAndTick : Obligations.BlockChangesOnlyAtExecAndTick := by
  intro s t e rest hs h hexec htick hreset
  rw [step_answer s t e rest hs h, State.answer_block]
  cases e with
  | exec tr => exact absurd rfl (hexec tr)
  | tick => exact absurd rfl htick
  | powerOn flags => exact absurd rfl (hreset flags)
  | project | cursorPosition | cursorVisible | cursorActive | updateDisplay | overlap => rfl

/-- Settles O12: an event with a meaning is answered and one without is refused, and a step has one outcome. -/
theorem refusedExactlyWithoutMeaning : Obligations.RefusedExactlyWithoutMeaning := by
  intro s e rest hs
  cases he : e.wellFormed with
  | true => simp [step_of_wellFormed s e rest hs he]
  | false =>
    obtain ⟨r, hr⟩ := step_of_not_wellFormed s e rest hs he
    simp [hr]

/-! ### The responses (D2, R180) -/

theorem Block.response_eq_illegal_iff (k : Block) (i : Instr) : k.response i = .illegal ↔ i = .illegal := by
  cases i <;> simp [Block.response]

theorem Block.response_eq_data_iff (k : Block) (i : Instr) :
    (∃ v, k.response i = .data v) ↔ i = .readData ∨ i = .readBusy := by
  cases i <;> simp [Block.response]

theorem Block.response_eq_none_iff (k : Block) (i : Instr) :
    k.response i = .none ↔ ¬(i = .readData ∨ i = .readBusy) ∧ i ≠ .illegal := by
  cases i <;> simp [Block.response]

/-- The reads are the transactions with `rw` set (R71). -/
theorem decode_eq_read_iff (t : Transaction) : decode t = .readData ∨ decode t = .readBusy ↔ t.rw = true := by
  obtain ⟨hread, -, hbusy, -⟩ := firstLevelDecode t
  rw [hread, hbusy]
  cases t.rs <;> simp

/-- The one illegal transaction is the zero word (R77). -/
theorem decode_eq_illegal_iff_zero (t : Transaction) : decode t = .illegal ↔ t = ⟨false, false, 0x00⟩ := by
  rw [decode_eq_illegal_iff, ← Transaction.mk.injEq]

/-- Settles O13: the response of the decoded instruction, and which transactions decode to a read or to ILLEGAL. -/
theorem everyTransactionIsAnswered : Obligations.EveryTransactionIsAnswered := by
  intro tr s
  refine ⟨_, s.block.response (decode tr), exec_eq (decode tr) s, rfl, rfl, ?_, ?_, ?_⟩
  · rw [Block.response_eq_illegal_iff, decode_eq_illegal_iff_zero]
  · rw [Block.response_eq_data_iff, decode_eq_read_iff]
  · rw [Block.response_eq_none_iff, decode_eq_read_iff, Bool.not_eq_true, ne_eq, decode_eq_illegal_iff_zero]

end Sys2Proof.Machine

/-! ## Invariant and noninterference

What every step keeps of the block, and the fields that no step reads (spec/10_state.md). -/

namespace Sys2Proof.Machine

/-! ### The invariant (R22, R23, R26, R29) -/

theorem Block.after_inv (k : Block) (i : Instr) (h : k.inv) : (k.after i).inv := by
  cases i with
  | readData => exact k.advance_inv h
  | writeData v => exact (k.dataWrite v).advance_inv (k.dataWrite_inv v h)
  | setDdramAddr a => exact k.setPointer_inv (ddramField a) h
  | cursorControl sc rl => exact k.shift_inv sc rl h
  | displayControl d c b => exact k.setDisplay_inv d c b h
  | returnHome => exact k.resetHome_inv h
  | clear => exact k.clearAll_inv h
  | readBusy | setCgramAddr | functionSet | entryModeSet | illegal => exact h

theorem Block.reset_inv (flags : ResetFlags) : (Block.reset flags).inv :=
  ⟨Block.reset_inRange flags, memClear_wf, fun _ => rfl⟩

/-- Settles O38: each operation a step can perform on the block keeps the invariant. -/
theorem stepKeepsTheInvariant : Obligations.StepKeepsTheInvariant := by
  intro s t hinv h
  rcases step_block_cases s t h with ht | ⟨tr, -, -, ht⟩ | ⟨-, -, ht⟩ | ⟨flags, -, -, ht⟩ <;> rw [ht]
  · exact hinv
  · exact s.block.after_inv (decode tr) hinv
  · exact s.block.tick_inv hinv
  · exact Block.reset_inv flags

/-- Settles O39: the reset block lists no cell, holds the canonical table, and has CV clear, whatever the flags. -/
theorem resetMeetsTheInvariant : Obligations.ResetMeetsTheInvariant :=
  ⟨fun flags _ => Block.reset_inv flags, Block.reset_inv Config.defaultResetFlags⟩

/-! ### The fields that nothing reads (R30, R31) -/

/-- The reset event writes every field; any other event gives the same block, the inert fields aside, whatever these held. -/
theorem Block.afterEvent_withoutInert (k : Block) (e : Event) :
    (k.withoutInert.afterEvent e).withoutInert = (k.afterEvent e).withoutInert := by
  cases e with
  | exec tr =>
    simp only [Block.afterEvent]
    cases decode tr with
    | readData | writeData => simp only [Block.after, Block.advance_eq]; rfl
    | cursorControl sc rl => cases sc <;> rfl
    | readBusy | setDdramAddr | setCgramAddr | functionSet | displayControl | entryModeSet | returnHome | clear
    | illegal => rfl
  | tick | powerOn | project | cursorPosition | cursorVisible | cursorActive | updateDisplay | overlap => rfl

/-- No output of an event depends on the inert fields: neither the byte a data read answers, nor the grid, nor an accessor. -/
theorem Block.seen_withoutInert (k : Block) (e : Event) : k.withoutInert.seen e = k.seen e := by
  cases e with
  | exec tr => simp only [Block.seen]; cases decode tr <;> rfl
  | tick | powerOn | project | cursorPosition | cursorVisible | cursorActive | updateDisplay | overlap => rfl

/-- Two machines to compare: the same events to come, and blocks that differ in the inert fields alone. -/
def State.Alike (s s' : State) : Prop := s.block.withoutInert = s'.block.withoutInert ∧ s.events = s'.events

/-- An event is answered alike by blocks that differ in the inert fields alone. -/
theorem Block.event_alike (k k' : Block) (e : Event) (h : k.withoutInert = k'.withoutInert) :
    (k.afterEvent e).withoutInert = (k'.afterEvent e).withoutInert ∧ k.seen e = k'.seen e := by
  rw [← k.afterEvent_withoutInert, ← k.seen_withoutInert, h]
  exact ⟨k'.afterEvent_withoutInert e, k'.seen_withoutInert e⟩

/-- One step of the simulation. -/
theorem State.Alike.step_next {s s' t : State} (h : s.Alike s') (hstep : step s = .next t) :
    ∃ (t' : State) (new : List Output), step s' = .next t' ∧ t.Alike t' ∧
      t.outputs = new ++ s.outputs ∧ t'.outputs = new ++ s'.outputs := by
  obtain ⟨hblock, hevents⟩ := h
  rcases step_answer_cases s t hstep with ⟨hnil, rfl⟩ | ⟨e, rest, hs, he, rfl⟩
  · exact ⟨s', [], step_idle s' (hevents ▸ hnil), ⟨hblock, hevents⟩, rfl, rfl⟩
  · obtain ⟨hafter, hseen⟩ := Block.event_alike s.block s'.block e hblock
    refine ⟨_, s.block.seen e, step_of_wellFormed s' e rest (hevents ▸ hs) he, ⟨hafter, rfl⟩, rfl, ?_⟩
    rw [State.answer_outputs, hseen]

/-- Settles O37: the machines stay alike step by step, and the outputs of the steps are the same. -/
theorem inertFieldsAreNeverRead : Obligations.InertFieldsAreNeverRead := by
  suffices hrun : ∀ (n : Nat) (s s' t : State), s.Alike s' → Host.Core.run core n s = .next t →
      ∃ (t' : State) (new : List Output), Host.Core.run core n s' = .next t' ∧ t.Alike t' ∧
        t.outputs = new ++ s.outputs ∧ t'.outputs = new ++ s'.outputs by
    intro n s s' t hblock hevents h
    obtain ⟨t', new, hr, ⟨hb, he⟩, ho, ho'⟩ := hrun n s s' t ⟨hblock, hevents⟩ h
    exact ⟨t', new, hr, hb, he, ho, ho'⟩
  intro n
  induction n with
  | zero => rintro s s' t halike ⟨⟩; exact ⟨s', [], rfl, halike, rfl, rfl⟩
  | succ n ih =>
    intro s s' u halike h
    obtain ⟨t, hst, htu⟩ := run_succ_inv n s u h
    obtain ⟨t', new, hst', halike', ho, ho'⟩ := halike.step_next hst
    obtain ⟨u', later, htu', halike'', hu, hu'⟩ := ih t t' u halike' htu
    refine ⟨u', later ++ new, (run_succ n s' t' hst').trans htu', halike'', ?_, ?_⟩
    · rw [hu, ho, List.append_assoc]
    · rw [hu', ho', List.append_assoc]

end Sys2Proof.Machine

/-! ## Encoding

The word of an instruction as a number, and how it and the decoder undo each other (spec/30_encoding.md R70, R76, R79). -/

namespace Sys2Proof

/-! ### The word of an instruction as a number (R79) -/

/-- The word of an instruction as the sum of its opcode bit and its operands, each at its place. -/
def Instr.wordNat : Instr → Nat
  | .readData => 768
  | .writeData data => 512 + data.toNat
  | .readBusy => 256
  | .setDdramAddr a => 128 + a.toNat
  | .setCgramAddr a => 64 + a.toNat
  | .functionSet dl n f => 32 + dl.toNat * 16 + n.toNat * 8 + f.toNat * 4
  | .cursorControl sc rl => 16 + sc.toNat * 8 + rl.toNat * 4
  | .displayControl d c b => 8 + d.toNat * 4 + c.toNat * 2 + b.toNat
  | .entryModeSet inc sh => 4 + inc.toNat * 2 + sh.toNat
  | .returnHome => 2
  | .clear => 1
  | .illegal => 0

/-- An opcode bit above an address field: the byte's value is their sum. -/
theorem toNat_opcode_or_field {k : Nat} (hk : k < 8) (a : BitVec k) :
    (BitVec.ofNat 8 (2 ^ k) ||| a.setWidth 8).toNat = 2 ^ k + a.toNat := by
  have hpow : 2 ^ k < 2 ^ 8 := Nat.pow_lt_pow_right (by decide) hk
  rw [BitVec.toNat_or, BitVec.toNat_ofNat, Nat.mod_eq_of_lt hpow, BitVec.toNat_setWidth,
    Nat.mod_eq_of_lt (a.isLt.trans hpow)]
  simpa using (Nat.two_pow_add_eq_or_of_lt a.isLt 1).symm

theorem encode_setDdramAddr_db_toNat (a : BitVec 7) : (encode (.setDdramAddr a)).db.toNat = 128 + a.toNat :=
  toNat_opcode_or_field (by decide) a

theorem encode_setCgramAddr_db_toNat (a : BitVec 6) : (encode (.setCgramAddr a)).db.toNat = 64 + a.toNat :=
  toNat_opcode_or_field (by decide) a

theorem encodeWord_toNat (i : Instr) : (encodeWord i).toNat = i.wordNat := by
  rw [encodeWord, Transaction.pack_toNat]
  cases i with
  | writeData data => simp [encode, Instr.wordNat]
  | setDdramAddr a => rw [encode_setDdramAddr_db_toNat]; simp [encode, Instr.wordNat]
  | setCgramAddr a => rw [encode_setCgramAddr_db_toNat]; simp [encode, Instr.wordNat]
  | functionSet dl n f => revert dl n f; decide
  | cursorControl sc rl => revert sc rl; decide
  | displayControl d c b => revert d c b; decide
  | entryModeSet inc sh => revert inc sh; decide
  | readData | readBusy | returnHome | clear | illegal => rfl

theorem encodeWord_eq_ofNat (i : Instr) : encodeWord i = BitVec.ofNat 10 i.wordNat := by
  rw [← encodeWord_toNat, BitVec.ofNat_toNat, BitVec.setWidth_eq]

/-! ### Decoding what was encoded -/

/-- The decoder gives every instruction back: an address from the byte's value in the range of its opcode bit, a flag from
the bit it was written to. -/
theorem decode_encode (i : Instr) : decode (encode i) = i := by
  cases i with
  | setDdramAddr a =>
    have hdb := encode_setDdramAddr_db_toNat a
    rw [decode_instructionWrite _ rfl rfl, decodeIr_setDdramAddr _ (by omega), hdb]
    simp
  | setCgramAddr a =>
    have hdb := encode_setCgramAddr_db_toNat a
    have ha := a.isLt
    rw [decode_instructionWrite _ rfl rfl, decodeIr_setCgramAddr _ (by omega) (by omega), hdb]
    simp
  | functionSet dl n f => revert dl n f; decide
  | cursorControl sc rl => revert sc rl; decide
  | displayControl d c b => revert d c b; decide
  | entryModeSet inc sh => revert inc sh; decide
  | readData | writeData | readBusy | returnHome | clear | illegal => rfl

/-- A word is the transaction it packs (R70). -/
theorem unpack_pack (t : Transaction) : Transaction.unpack t.pack = t := by
  obtain ⟨rs, rw, db⟩ := t
  simp only [Transaction.unpack, Transaction.pack, Transaction.mk.injEq, BitVec.getLsbD_append]
  exact ⟨by simp, by simp, BitVec.extractLsb'_append_eq_right⟩

/-- A number of the opcode table that has ten bits is read as that word. -/
theorem decodeTableWord_of_word (w : Word) : decodeTableWord 16 w.toNat = some (decode (Transaction.unpack w)) := by
  have hmod : w.toNat % 2 ^ 16 = w.toNat := Nat.mod_eq_of_lt (w.isLt.trans (by decide))
  rw [decodeTableWord, hmod, decodeWide, if_pos w.isLt, BitVec.ofNat_toNat, BitVec.setWidth_eq]

/-- Settles O6: the word and the table number both unpack to the transaction that was encoded. -/
theorem encodeThenDecode : Obligations.EncodeThenDecode := by
  intro i _
  have hword : decode (Transaction.unpack (encodeWord i)) = i := by rw [encodeWord, unpack_pack, decode_encode]
  exact ⟨decode_encode i, hword, by rw [decodeTableWord_of_word, hword]⟩

/-! ### Encoding what was decoded (R76) -/

/-- How many low bits of the word no rule reads for this instruction. -/
def Instr.dontCareBits : Instr → Nat
  | .readData | .readBusy => 8
  | .functionSet _ _ _ | .cursorControl _ _ => 2
  | .returnHome => 1
  | .writeData _ | .setDdramAddr _ | .setCgramAddr _ | .displayControl _ _ _ | .entryModeSet _ _ | .clear | .illegal => 0

theorem careMask_eq (i : Instr) : careMask i = BitVec.allOnes 10 <<< i.dontCareBits := by
  cases i <;> simp [careMask, Instr.dontCareBits]

/-- The mask clears the don't-care bits, which rounds the word down to a multiple of their power of two. -/
theorem and_careMask_toNat (i : Instr) (w : Word) :
    (w &&& careMask i).toNat = w.toNat / 2 ^ i.dontCareBits * 2 ^ i.dontCareBits := by
  have hle : w.toNat / 2 ^ i.dontCareBits * 2 ^ i.dontCareBits < 2 ^ 10 := (Nat.div_mul_le_self _ _).trans_lt w.isLt
  rw [careMask_eq, ← BitVec.shiftLeft_ushiftRight, BitVec.toNat_shiftLeft, BitVec.toNat_ushiftRight, Nat.shiftLeft_eq,
    Nat.shiftRight_eq_div_pow, Nat.mod_eq_of_lt hle]

/-- The byte of an instruction-register write, its don't-care bits cleared, is the word of what it decodes to. -/
theorem decodeIr_wordNat (db : Byte) :
    (decodeIr db).wordNat = db.toNat / 2 ^ (decodeIr db).dontCareBits * 2 ^ (decodeIr db).dontCareBits := by
  have hlt := db.isLt
  obtain h | ⟨hlo, hhi⟩ | ⟨hlo, hhi⟩ | ⟨hlo, hhi⟩ | ⟨hlo, hhi⟩ | ⟨hlo, hhi⟩ | ⟨hlo, hhi⟩ | h | h :
      128 ≤ db.toNat ∨ (64 ≤ db.toNat ∧ db.toNat < 128) ∨ (32 ≤ db.toNat ∧ db.toNat < 64) ∨
      (16 ≤ db.toNat ∧ db.toNat < 32) ∨ (8 ≤ db.toNat ∧ db.toNat < 16) ∨ (4 ≤ db.toNat ∧ db.toNat < 8) ∨
      (2 ≤ db.toNat ∧ db.toNat < 4) ∨ db.toNat = 1 ∨ db.toNat = 0 := by omega
  · rw [decodeIr_setDdramAddr db h, Instr.wordNat, Instr.dontCareBits, BitVec.toNat_ofNat]; omega
  · rw [decodeIr_setCgramAddr db hlo hhi, Instr.wordNat, Instr.dontCareBits, BitVec.toNat_ofNat]; omega
  · rw [decodeIr_functionSet db hlo hhi, Instr.wordNat, Instr.dontCareBits]; simp only [Nat.toNat_testBit]; omega
  · rw [decodeIr_cursorControl db hlo hhi, Instr.wordNat, Instr.dontCareBits]; simp only [Nat.toNat_testBit]; omega
  · rw [decodeIr_displayControl db hlo hhi, Instr.wordNat, Instr.dontCareBits]; simp only [Nat.toNat_testBit]; omega
  · rw [decodeIr_entryModeSet db hlo hhi, Instr.wordNat, Instr.dontCareBits]; simp only [Nat.toNat_testBit]; omega
  · rw [decodeIr_returnHome db hlo hhi, Instr.wordNat, Instr.dontCareBits]; omega
  · rw [decodeIr_clear db h, h]; rfl
  · rw [decodeIr_illegal db h, h]; rfl

theorem decode_wordNat (t : Transaction) :
    (decode t).wordNat = t.pack.toNat / 2 ^ (decode t).dontCareBits * 2 ^ (decode t).dontCareBits := by
  rw [Transaction.pack_toNat]
  have hlt := t.db.isLt
  obtain ⟨rs, rw, db⟩ := t
  rcases rs with _ | _ <;> rcases rw with _ | _ <;> simp only [decode, Bool.toNat_true, Bool.toNat_false]
  · simpa using decodeIr_wordNat db
  all_goals rw [Instr.wordNat, Instr.dontCareBits]; omega

/-- Settles O7: as numbers, the encoded word and the masked word are both the word rounded down to its care bits. -/
theorem decodeThenEncode : Obligations.DecodeThenEncode := by
  refine fun t => ⟨BitVec.eq_of_toNat_eq ?_, unpack_pack t⟩
  rw [encodeWord_toNat, and_careMask_toNat, decode_wordNat]

/-! ### Don't-care bits (R76) -/

/-- A byte below `2 ^ k` does not reach the bits from `k` up. -/
theorem testBit_xor_of_lt (n v k j : Nat) (hv : v < 2 ^ k) (hj : k ≤ j) : (n ^^^ v).testBit j = n.testBit j := by
  rw [Nat.testBit_xor, Nat.testBit_lt_two_pow (hv.trans_le (Nat.pow_le_pow_right (by decide) hj)), Bool.xor_false]

theorem xor_div_four (n v : Nat) (hv : v < 4) : (n ^^^ v) / 4 = n / 4 := by
  have hv0 : v / 2 ^ 2 = 0 := Nat.div_eq_of_lt hv
  rw [show 4 = 2 ^ 2 from rfl, Nat.xor_div_two_pow, hv0, Nat.xor_zero]

/-- The two low bits of FUNCTION_SET and CURSOR_CONTROL: the other bits place the byte in the same range, and hold the flags. -/
theorem decodeIr_xor_low (db v : Byte) (hlo : 16 ≤ db.toNat) (hhi : db.toNat < 64) (hv : v.toNat < 4) :
    decodeIr (db ^^^ v) = decodeIr db := by
  have hx : (db ^^^ v).toNat = db.toNat ^^^ v.toNat := BitVec.toNat_xor ..
  have hdiv := xor_div_four db.toNat v.toNat hv
  have hbit : ∀ j, 2 ≤ j → (db.toNat ^^^ v.toNat).testBit j = db.toNat.testBit j :=
    fun j => testBit_xor_of_lt db.toNat v.toNat 2 j hv
  rw [← hx] at hdiv
  rcases Nat.lt_or_ge db.toNat 32 with h32 | h32
  · rw [decodeIr_cursorControl db hlo h32, decodeIr_cursorControl _ (by omega) (by omega), hx, hbit 3 (by decide),
      hbit 2 (by decide)]
  · rw [decodeIr_functionSet db h32 hhi, decodeIr_functionSet _ (by omega) (by omega), hx, hbit 4 (by decide),
      hbit 3 (by decide), hbit 2 (by decide)]

/-- Settles O5: a read's byte is not looked at, the low bits of the two instructions are below their flags, and the zero word
alone is illegal. -/
theorem dontCareBitsChangeNothing : Obligations.DontCareBitsChangeNothing := by
  refine ⟨fun t v hread => ?_, fun t v hrs hrw hlo hhi hv => ?_, fun t hrs hrw hdb => ?_, fun t hrs hrw hdb hill => ?_⟩
  · obtain ⟨rs, rw, db⟩ := t
    obtain rfl : rw = true := hread
    cases rs <;> rfl
  · rw [decode_instructionWrite t hrs hrw]
    exact (decode_instructionWrite { t with db := t.db ^^^ v } hrs hrw).trans (decodeIr_xor_low t.db v hlo hhi hv)
  · rw [decode_instructionWrite t hrs hrw]
    rcases hdb with h | h <;> rw [h] <;> rfl
  · obtain ⟨-, -, hzero⟩ := (decode_eq_illegal_iff t).mp hill
    exact hdb hzero

/-! ### The words of the assembly lines (R79) -/

/-- The word of a line that is one instruction. -/
theorem map_pack_encode (i : Instr) : [encode i].map Transaction.pack = [BitVec.ofNat 10 i.wordNat] :=
  congrArg (fun w => [w]) (encodeWord_eq_ofNat i)

theorem toNat_beq_one (n : Nat) (h : n ≤ 1) : (n == 1).toNat = n := by
  obtain rfl | rfl : n = 0 ∨ n = 1 := by omega
  · rfl
  · rfl

/-- The word of a `.RAW` line. -/
theorem pack_raw (rs rw db : Nat) (hrs : rs ≤ 1) (hrw : rw ≤ 1) (hdb : db ≤ 255) :
    Transaction.pack ⟨rs == 1, rw == 1, BitVec.ofNat 8 db⟩ = BitVec.ofNat 10 (rs * 512 + rw * 256 + db) := by
  apply BitVec.eq_of_toNat_eq
  rw [Transaction.pack_toNat, toNat_beq_one rs hrs, toNat_beq_one rw hrw, BitVec.toNat_ofNat, BitVec.toNat_ofNat]
  omega

theorem wordNat_writeData_ofNat (v : Nat) (h : v ≤ 255) : (Instr.writeData (BitVec.ofNat 8 v)).wordNat = 0x200 + v := by
  rw [Instr.wordNat, BitVec.toNat_ofNat]
  omega

/-- The words of `WRITE_STRING`: one WRITE_DATA a character. -/
theorem writeString_words (cs : List Char) (h : (AsmLine.writeString cs).wellFormed = true) :
    (AsmLine.writeString cs).assemble.map Transaction.pack = cs.map fun c => BitVec.ofNat 10 (0x200 + c.toNat) := by
  have hascii : ∀ c ∈ cs, c.toNat ≤ 127 := by simpa [AsmLine.wellFormed] using h
  rw [AsmLine.assemble, List.map_map]
  refine List.map_congr_left fun c hc => ?_
  have hc127 := hascii c hc
  exact (encodeWord_eq_ofNat _).trans (by rw [asciiByte, wordNat_writeData_ofNat _ (by omega)])

/-- Settles O8: each line is one encoded instruction, whose word is `Instr.wordNat`; `.RAW` and `WRITE_STRING` apart. -/
theorem assemblerWords : Obligations.AssemblerWords := by
  refine ⟨fun a ha => ?_, fun a ha => ?_, fun dl n f hdl hn hf => ?_, fun sc rl hsc hrl => ?_, fun d c b hd hc hb => ?_,
    fun inc sh hinc hsh => ?_, rfl, rfl, fun v hv => ?_, rfl, rfl, fun rs rw db hrs hrw hdb => ?_, writeString_words,
    rfl, rfl, rfl, rfl⟩
  · rw [AsmLine.assemble, map_pack_encode, Instr.wordNat, BitVec.toNat_ofNat, Nat.mod_eq_of_lt (by omega)]
  · rw [AsmLine.assemble, map_pack_encode, Instr.wordNat, BitVec.toNat_ofNat, Nat.mod_eq_of_lt (by omega)]
  · rw [AsmLine.assemble, map_pack_encode, Instr.wordNat, toNat_beq_one dl hdl, toNat_beq_one n hn, toNat_beq_one f hf]
  · rw [AsmLine.assemble, map_pack_encode, Instr.wordNat, toNat_beq_one sc hsc, toNat_beq_one rl hrl]
  · rw [AsmLine.assemble, map_pack_encode, Instr.wordNat, toNat_beq_one d hd, toNat_beq_one c hc, toNat_beq_one b hb]
  · rw [AsmLine.assemble, map_pack_encode, Instr.wordNat, toNat_beq_one inc hinc, toNat_beq_one sh hsh]
  · rw [AsmLine.assemble, map_pack_encode, wordNat_writeData_ofNat v hv]
  · exact congrArg (fun w => [w]) (pack_raw rs rw db hrs hrw hdb)

end Sys2Proof

/-! ## The instructions' effects

WRITE_DATA, the instruction-register writes and the programs made of them (spec/41_data_register.md,
spec/42_instruction_register.md, spec/70_reset_and_hazards.md). -/

namespace Sys2Proof

/-! ### The rows with an operand (R72, R78) -/

/-- The two opcode bits of WRITE_DATA's row are `rs` and `rw`, so every word of the row is a data write (R71, R78). -/
theorem decode_eq_writeData_of_pack (t : Transaction) (h : t.pack &&& 0x300 = 0x200) : decode t = .writeData t.db := by
  have hword : t.pack.toNat / 2 ^ 8 = 2 := (Instr.row_accepts_iff (.writeData 0) _).mp (beq_iff_eq.mpr h)
  rw [Transaction.pack_toNat] at hword
  have hdb := t.db.isLt
  obtain ⟨hrs, hrw⟩ : t.rs.toNat = 1 ∧ t.rw.toNat = 0 := by
    have := t.rs.toNat_le
    have := t.rw.toNat_le
    omega
  rw [decode, Bool.toNat_eq_one.mp hrs, Bool.toNat_eq_zero.mp hrw]

theorem decode_eq_setCgramAddr_of_row (t : Transaction) (h : t.pack &&& 0x3C0 = 0x040) :
    decode t = .setCgramAddr (BitVec.ofNat 6 (t.db.toNat % 64)) := by
  obtain ⟨hdecode, hlo, hhi⟩ : decode t = decodeIr t.db ∧ 64 ≤ t.db.toNat ∧ t.db.toNat < 128 :=
    decode_eq_decodeIr_of_row (.setCgramAddr 0) rfl (by decide) t h
  have hfield : t.db.toNat % 64 = t.db.toNat - 64 := by omega
  rw [hdecode, decodeIr_setCgramAddr _ hlo hhi, hfield]

theorem decode_eq_functionSet_of_row (t : Transaction) (h : t.pack &&& 0x3E0 = 0x020) :
    decode t = .functionSet (t.db.toNat.testBit 4) (t.db.toNat.testBit 3) (t.db.toNat.testBit 2) := by
  obtain ⟨hdecode, hlo, hhi⟩ := decode_eq_decodeIr_of_row (.functionSet false false false) rfl (by decide) t h
  rw [hdecode, decodeIr_functionSet _ hlo hhi]

theorem decode_eq_displayControl_of_row (t : Transaction) (h : t.pack &&& 0x3F8 = 0x008) :
    decode t = .displayControl (t.db.toNat.testBit 2) (t.db.toNat.testBit 1) (t.db.toNat.testBit 0) := by
  obtain ⟨hdecode, hlo, hhi⟩ := decode_eq_decodeIr_of_row (.displayControl false false false) rfl (by decide) t h
  rw [hdecode, decodeIr_displayControl _ hlo hhi]

/-- An instruction-register write decodes to neither of the data transactions nor to a busy read (R71). -/
theorem decode_ne_otherClass (t : Transaction) (hrs : t.rs = false) (hrw : t.rw = false) :
    decode t ≠ .readData ∧ (∀ v, decode t ≠ .writeData v) ∧ decode t ≠ .readBusy := by
  rw [decode_instructionWrite t hrs hrw]
  exact decodeIr_ne_otherClass t.db

end Sys2Proof

namespace Sys2Proof.Machine

/-! ### One instruction (R120, R134 to R141) -/

/-- Settles O14: the store at the pointer, then `advance`; `Block.writeAdvance_eq` names every field they write. -/
theorem writeDataStoresAndAdvances : Obligations.WriteDataStoresAndAdvances := by
  refine ⟨decode_eq_writeData_of_pack, fun v s => ⟨_, exec_writeData_eq v s, mod80_of_lt s.block.AP, fun x => ?_,
    (s.block.dataWrite v).advance_AP, fun x => ?_, ?_, rfl, rfl⟩⟩
  · rw [State.complete_block, Block.advance_DDRAM, Block.dataWrite_read]
    simp only [eq_comm]
  · rw [State.complete_block, Block.advance_RWT, Block.dataWrite_RWT, Block.dataWrite_SH, Block.dataWrite_ID]
    split
    · rw [Rwt.entry_map]
    · rfl
  · rw [State.complete_block, Block.writeAdvance_eq]

/-- Settles O22: the row's field, and CGA alone is written (R134). -/
theorem setCgramAddrRecordsOnly : Obligations.SetCgramAddrRecordsOnly :=
  ⟨decode_eq_setCgramAddr_of_row, exec_setCgramAddr_eq⟩

/-- The projector reads none of the function-set flags (R135). -/
theorem Block.project_setFunction (cfg : ProjectorConfig) (k : Block) (dl n f : Bool) (lines segments : Nat) :
    (k.setFunction dl n f).project cfg lines segments = k.project cfg lines segments := rfl

theorem Block.cursorPosition_setFunction (k : Block) (dl n f : Bool) (lines : Nat) :
    (k.setFunction dl n f).cursorPosition lines = k.cursorPosition lines := rfl

/-- Settles O23: the row's three bits, the three flags they are stored in, and that the projector reads none of them. -/
theorem functionSetStoresOnly : Obligations.FunctionSetStoresOnly :=
  ⟨decode_eq_functionSet_of_row, fun dl n f s => ⟨_, exec_functionSet_eq dl n f s, rfl,
    fun cfg => Block.project_setFunction cfg s.block dl n f, Block.cursorPosition_setFunction s.block dl n f⟩⟩

/-- Settles O26: the row's three bits and the four flags they are stored in (R138). -/
theorem displayControlSetsFourFlags : Obligations.DisplayControlSetsFourFlags :=
  ⟨decode_eq_displayControl_of_row, exec_displayControl_eq⟩

/-- Settles O29: `clearAll` empties the store's list, in which every cell reads as the space, and goes home (R141). -/
theorem clearFillsAndGoesHome : Obligations.ClearFillsAndGoesHome :=
  ⟨decode_eq_of_row .clear (by simp),
    fun s => ⟨_, exec_clear_eq s, memRead_memClear, rfl, rfl, rfl, rfl, rfl⟩⟩

/-! ### Opposite shifts (R103) -/

/-- An address moved by two amounts that make a whole turn. -/
theorem move_back_of_lt (r d e : Nat) (h : r < 80) (hde : d + e = 80) : ((r + d) % 80 + e) % 80 = r := by
  omega

theorem Block.shift_shift_opposite (k : Block) (sc rl : Bool) (h : k.inRange) : (k.shift sc rl).shift sc (!rl) = k := by
  obtain ⟨hap, h0, h1, h2, h3⟩ := h
  have htable : ((if rl then 79 else 1) + if !rl then 79 else 1) = 80 := by cases rl <;> rfl
  have hpointer : ((if rl then 1 else 79) + if !rl then 1 else 79) = 80 := by cases rl <;> rfl
  rw [Block.shift_eq, Block.shift_eq]
  cases sc with
  | true =>
    simp only [if_true, Rwt.map, move_back_of_lt _ _ _ h0 htable, move_back_of_lt _ _ _ h1 htable,
      move_back_of_lt _ _ _ h2 htable, move_back_of_lt _ _ _ h3 htable]
  | false => simp only [Bool.false_eq_true, if_false, move_back_of_lt _ _ _ hap hpointer]

/-- Settles O25: each address, in range, comes back to itself. -/
theorem oppositeShiftsCancel : Obligations.OppositeShiftsCancel := fun sc rl s h =>
  ⟨_, _, exec_cursorControl_eq sc rl s, exec_cursorControl_eq sc (!rl) _, s.block.shift_shift_opposite sc rl h⟩

/-! ### Who writes the pointer, the table and the flags (R24, R28 to R31, R132) -/

theorem Block.after_AP (k : Block) (i : Instr) (hread : i ≠ .readData) (hwrite : ∀ v, i ≠ .writeData v) :
    (∃ a, i = .setDdramAddr a) ∨ (∃ rl, i = .cursorControl false rl) ∨ i = .returnHome ∨ i = .clear ∨
      (k.after i).AP = k.AP := by
  cases i with
  | readData => exact absurd rfl hread
  | writeData v => exact absurd rfl (hwrite v)
  | cursorControl sc rl => cases sc <;> simp [Block.after]
  | setDdramAddr | returnHome | clear => simp
  | readBusy | setCgramAddr | functionSet | displayControl | entryModeSet | illegal => simp [Block.after]

/-- Settles O32: the pointer's writers among the instructions, the data transactions apart, and the responses by
`Block.response`. -/
theorem instructionWritesThatMoveThePointer : Obligations.InstructionWritesThatMoveThePointer := by
  intro tr s t hrs hrw h
  obtain ⟨hread, hwrite, hbusy⟩ := decode_ne_otherClass tr hrs hrw
  cases (exec_eq (decode tr) s).symm.trans h
  refine ⟨s.block.after_AP (decode tr) hread hwrite, fun hill => ?_⟩
  rw [State.complete_outputs, (s.block.response_eq_none_iff (decode tr)).mpr ⟨by simp [hread, hbusy], hill⟩]

/-- Settles O36: `advance` moves the table when SH is set, `shift` when SC is, and home sets it. -/
theorem tableMovesOnlyWithShiftsAndHome : Obligations.TableMovesOnlyWithShiftsAndHome := by
  intro i s t h
  rw [exec_block i s t h]
  cases i with
  | readData | writeData =>
    cases hsh : s.block.SH with
    | true => exact .inr (.inl ⟨rfl, by simp⟩)
    | false => exact .inr (.inr (.inr (by simp [Block.after, hsh])))
  | cursorControl sc rl =>
    cases sc with
    | true => exact .inl ⟨rl, rfl⟩
    | false => exact .inr (.inr (.inr rfl))
  | returnHome => exact .inr (.inr (.inl ⟨.inl rfl, rfl⟩))
  | clear => exact .inr (.inr (.inl ⟨.inr rfl, rfl⟩))
  | readBusy | setDdramAddr | setCgramAddr | functionSet | displayControl | entryModeSet | illegal =>
    exact .inr (.inr (.inr rfl))

@[simp] theorem Block.shift_D (k : Block) (sc rl : Bool) : (k.shift sc rl).D = k.D := by cases sc <;> rfl
@[simp] theorem Block.shift_C (k : Block) (sc rl : Bool) : (k.shift sc rl).C = k.C := by cases sc <;> rfl
@[simp] theorem Block.shift_B (k : Block) (sc rl : Bool) : (k.shift sc rl).B = k.B := by cases sc <;> rfl
@[simp] theorem Block.shift_CV (k : Block) (sc rl : Bool) : (k.shift sc rl).CV = k.CV := by cases sc <;> rfl
@[simp] theorem Block.shift_DL (k : Block) (sc rl : Bool) : (k.shift sc rl).DL = k.DL := by cases sc <;> rfl
@[simp] theorem Block.shift_N (k : Block) (sc rl : Bool) : (k.shift sc rl).N = k.N := by cases sc <;> rfl
@[simp] theorem Block.shift_F (k : Block) (sc rl : Bool) : (k.shift sc rl).F = k.F := by cases sc <;> rfl
@[simp] theorem Block.shift_CGA (k : Block) (sc rl : Bool) : (k.shift sc rl).CGA = k.CGA := by cases sc <;> rfl

theorem Block.after_displayFlags (k : Block) (i : Instr) :
    (∃ d c b, i = .displayControl d c b) ∨
      ((k.after i).D = k.D ∧ (k.after i).C = k.C ∧ (k.after i).B = k.B ∧ (k.after i).CV = k.CV) := by
  cases i with
  | displayControl d c b => exact .inl ⟨d, c, b, rfl⟩
  | readData | writeData | cursorControl => exact .inr (by simp [Block.after])
  | readBusy | setDdramAddr | setCgramAddr | functionSet | entryModeSet | returnHome | clear | illegal =>
    exact .inr ⟨rfl, rfl, rfl, rfl⟩

theorem Block.after_functionFlags (k : Block) (i : Instr) :
    (∃ dl n f, i = .functionSet dl n f) ∨
      ((k.after i).DL = k.DL ∧ (k.after i).N = k.N ∧ (k.after i).F = k.F) := by
  cases i with
  | functionSet dl n f => exact .inl ⟨dl, n, f, rfl⟩
  | readData | writeData | cursorControl => exact .inr (by simp [Block.after])
  | readBusy | setDdramAddr | setCgramAddr | displayControl | entryModeSet | returnHome | clear | illegal =>
    exact .inr ⟨rfl, rfl, rfl⟩

theorem Block.after_CGA (k : Block) (i : Instr) : (∃ a, i = .setCgramAddr a) ∨ (k.after i).CGA = k.CGA := by
  cases i with
  | setCgramAddr a => exact .inl ⟨a, rfl⟩
  | readData | writeData | cursorControl => exact .inr (by simp [Block.after])
  | readBusy | setDdramAddr | functionSet | displayControl | entryModeSet | returnHome | clear | illegal =>
    exact .inr rfl

/-- Settles O35: for an EXEC the writers among the instructions, and of the other events TICK writes CV alone. -/
theorem eachFlagHasItsWriters : Obligations.EachFlagHasItsWriters := by
  intro s t e rest hs h hreset
  rw [step_answer s t e rest hs h, State.answer_block]
  cases e with
  | exec tr =>
    refine ⟨?display, ?function, ?cgram⟩
    case display =>
      exact (s.block.after_displayFlags (decode tr)).imp (fun ⟨d, c, b, hi⟩ => ⟨tr, d, c, b, rfl, hi⟩)
        fun ⟨hd, hc, hb, hcv⟩ => ⟨hd, hc, hb, .inr hcv⟩
    case function =>
      exact (s.block.after_functionFlags (decode tr)).imp (fun ⟨dl, n, f, hi⟩ => ⟨tr, dl, n, f, rfl, hi⟩) id
    case cgram => exact (s.block.after_CGA (decode tr)).imp (fun ⟨a, hi⟩ => ⟨tr, a, rfl, hi⟩) id
  | powerOn flags => exact absurd rfl (hreset flags)
  | tick => exact ⟨.inr ⟨rfl, rfl, rfl, .inl rfl⟩, .inr ⟨rfl, rfl, rfl⟩, .inr rfl⟩
  | project | cursorPosition | cursorVisible | cursorActive | updateDisplay | overlap =>
    exact ⟨.inr ⟨rfl, rfl, rfl, .inr rfl⟩, .inr ⟨rfl, rfl, rfl⟩, .inr rfl⟩

/-- Settles O41: the reset event's block is the power-on block, whose fields are those of R33. -/
theorem resetValues : Obligations.ResetValues := by
  intro flags s rest hs
  exact ⟨_, step_of_wellFormed s (.powerOn flags) rest hs rfl, rfl, rfl, memRead_memClear, rfl, rfl, rfl, rfl, rfl, rfl,
    rfl, rfl, rfl, rfl, rfl, rfl⟩

/-! ### Programs -/

/-- The events that issue a list of instructions. -/
abbrev issue (is : List Instr) : List Event := is.map fun i => .exec (encode i)

/-- A program runs to its end, and its instructions act on the block one after the other. -/
theorem run_issue (is : List Instr) (s : State) (rest : List Event) (hs : s.events = issue is ++ rest) :
    ∃ t : State, Host.Core.run core is.length s = .next t ∧ t.events = rest ∧
      t.block = is.foldl Block.after s.block := by
  have hrun := run_events (issue is) s rest (by simp [Event.wellFormed]) hs
  rw [List.length_map] at hrun
  refine ⟨_, hrun, foldl_answer_events .., ?_⟩
  rw [foldl_answer_block, issue, List.foldl_map]
  simp only [Block.afterEvent, decode_encode]

/-- The four instructions of the boot sequence write different fields, or the same values, so that any two commute (D21). -/
theorem Block.after_boot_comm (dl n f inc sh d c b : Bool) (i j : Instr)
    (hi : i ∈ [.functionSet dl n f, .clear, .entryModeSet inc sh, .displayControl d c b])
    (hj : j ∈ [.functionSet dl n f, .clear, .entryModeSet inc sh, .displayControl d c b]) (k : Block) :
    (k.after i).after j = (k.after j).after i := by
  simp only [List.mem_cons, List.not_mem_nil, or_false] at hi hj
  rcases hi with rfl | rfl | rfl | rfl <;> rcases hj with rfl | rfl | rfl | rfl <;> rfl

/-- Settles O42: every order gives the block of the listed order, since the instructions commute. -/
theorem bootSequenceInAnyOrder : Obligations.BootSequenceInAnyOrder := by
  intro dl n f inc sh d c b boot s rest hboot hs
  obtain ⟨t, hrun, hrest, hblock⟩ := run_issue boot s rest hs
  rw [hboot.length_eq] at hrun
  refine ⟨t, hrun, hrest, ?_⟩
  rw [hblock, hboot.foldl_eq' fun i hi j hj k =>
    Block.after_boot_comm dl n f inc sh d c b i j (hboot.subset hi) (hboot.subset hj) k]
  rfl

/-- The cell that was written, once its address is set again (R50, R51, R101). -/
theorem Block.dataRead_of_written (k : Block) (c : Byte) :
    ((k.dataWrite c).advance.setPointer (ddramField (BitVec.ofNat 7 k.dataAddress))).dataRead = c := by
  have hlt : k.dataAddress < 80 := mod80_lt k.AP
  have hfield : mod80 (ddramField (BitVec.ofNat 7 k.dataAddress)) = k.dataAddress := by
    rw [ddramField, BitVec.toNat_ofNat, mod80_natCast]; omega
  rw [Block.dataRead, Block.setPointer, hfield, Block.setAP_DDRAM, Block.setAP_AP, Block.advance_DDRAM,
    Block.dataWrite_read, mod80_of_lt _ hlt, if_pos rfl]

/-- Settles O18: the third response is that of a read at the cell written first. -/
theorem writeThenReadBack : Obligations.WriteThenReadBack := by
  intro c s rest hs
  refine ⟨_, run_events (issue [.writeData c, .setDdramAddr (BitVec.ofNat 7 s.block.dataAddress), .readData]) s rest
    (by simp [Event.wellFormed]) hs, foldl_answer_events .., ?_⟩
  simp only [issue, List.map_cons, List.map_nil, List.foldl_cons, List.foldl_nil, State.answer_outputs, State.answer_block,
    Block.seen, Block.afterEvent, decode_encode, Block.response, Block.after, Block.dataRead_of_written]
  rfl

/-! ### Strings (R79, R102, R120) -/

theorem memRead_congr (m : Memory) (x y : Int) (h : mod80 x = mod80 y) : memRead m x = memRead m y := by
  rw [memRead, memRead, h]

/-- What a string of data writes does to a block that counts up and does not shift: the bytes stand in the cells from the
pointer on, and the cells after them are as they were. -/
theorem Block.after_string (cs : List Byte) (k : Block) (hlen : cs.length ≤ 80) (hid : k.ID = true) (hsh : k.SH = false)
    (hap : k.AP < 80) :
    ∃ m, (cs.map Instr.writeData).foldl Block.after k = { k with DDRAM := m, AP := (k.AP + cs.length) % 80 } ∧
      (∀ (j : Nat) (c : Byte), cs[j]? = some c → memRead m ((k.AP + j : Nat) : Int) = c) ∧
      (∀ j : Nat, cs.length ≤ j → j < 80 → memRead m ((k.AP + j : Nat) : Int) =
        memRead k.DDRAM ((k.AP + j : Nat) : Int)) := by
  induction cs generalizing k with
  | nil =>
    refine ⟨k.DDRAM, ?_, by simp, fun _ _ _ => rfl⟩
    simp [Nat.mod_eq_of_lt hap]
  | cons c cs ih =>
    rw [List.length_cons] at hlen
    have hstep : k.after (.writeData c) = { k with DDRAM := memWrite k.DDRAM k.AP c, AP := (k.AP + 1) % 80 } := by
      rw [Block.after, Block.writeAdvance_eq, hid, hsh]; rfl
    obtain ⟨m, hfold, hin, hout⟩ := ih { k with DDRAM := memWrite k.DDRAM k.AP c, AP := (k.AP + 1) % 80 } (by omega) hid
      hsh (Nat.mod_lt _ (by decide))
    dsimp only at hin hout
    -- the cell `j` places after the first byte is `j` places after the advanced pointer, counted modulo 80
    have hcell : ∀ j : Nat, memRead m ((k.AP + (j + 1) : Nat) : Int) = memRead m (((k.AP + 1) % 80 + j : Nat) : Int) :=
      fun j => memRead_congr m _ _ (by rw [mod80_natCast, mod80_natCast]; omega)
    refine ⟨m, ?_, fun j d hj => ?_, fun j hlo hhi => ?_⟩
    · rw [List.map_cons, List.foldl_cons, hstep, hfold, List.length_cons, Nat.mod_add_mod, Nat.add_assoc,
        Nat.add_comm 1]
    · cases j with
      | zero =>
        -- the first byte is the 79th cell from the advanced pointer, which the other bytes do not reach
        obtain rfl : c = d := by simpa using hj
        have hfirst := hout 79 (by omega) (by decide)
        rw [← hcell, memRead_memWrite, mod80_natCast, mod80_natCast, if_pos (by omega)] at hfirst
        exact (memRead_congr m _ _ (by rw [mod80_natCast, mod80_natCast]; omega)).trans hfirst
      | succ j => exact (hcell j).trans (hin j d (by simpa using hj))
    · obtain ⟨j, rfl⟩ : ∃ i, j = i + 1 := ⟨j - 1, by rw [List.length_cons] at hlo; omega⟩
      rw [List.length_cons] at hlo
      rw [hcell, hout j (by omega) (by omega), memRead_memWrite, mod80_natCast, mod80_natCast, if_neg (by omega)]
      exact memRead_congr _ _ _ (by rw [mod80_natCast, mod80_natCast]; omega)

/-- Settles O19: the string is a program of data writes, whose effect on the block is `Block.after_string`. -/
theorem writeStringFillsConsecutiveCells : Obligations.WriteStringFillsConsecutiveCells := by
  intro cs s rest hlen hid hsh hap hs
  obtain ⟨t, hrun, hrest, hblock⟩ := run_issue (cs.map .writeData) s rest (by rw [hs, issue, List.map_map]; rfl)
  obtain ⟨m, hfold, hin, hout⟩ := Block.after_string cs s.block hlen hid hsh hap
  rw [List.length_map] at hrun
  rw [hfold] at hblock
  refine ⟨t, hrun, hrest, ?_⟩
  rw [hblock]
  exact ⟨rfl, hin, hout, rfl⟩

/-! ### Ticks (R166) -/

/-- The phase after `n` ticks. -/
def Block.phaseAfter (k : Block) (n : Nat) : Bool :=
  if k.B then (if n % 2 = 0 then k.CV else !k.CV) else (if n = 0 then k.CV else false)

theorem Block.after_ticks (n : Nat) (k : Block) :
    (List.replicate n Event.tick).foldl Block.afterEvent k = { k with CV := k.phaseAfter n } := by
  induction n generalizing k with
  | zero => simp [Block.phaseAfter]
  | succ n ih =>
    have hphase : k.tick.phaseAfter n = k.phaseAfter (n + 1) := by
      by_cases hb : k.B = true
      · rcases Nat.mod_two_eq_zero_or_one n with h | h <;> simp [Block.phaseAfter, hb, h, Nat.add_mod]
      · simp [Block.phaseAfter, hb]
    rw [List.replicate_succ, List.foldl_cons, Block.afterEvent, ih, hphase]
    rfl

/-- Settles O53: a run of ticks changes the phase alone, and no tick is seen. -/
theorem ticksFlipTheBlinkPhase : Obligations.TicksFlipTheBlinkPhase := by
  intro n s rest hs
  have hrun := run_events (List.replicate n .tick) s rest (by simp [Event.wellFormed]) hs
  rw [List.length_replicate] at hrun
  refine ⟨_, hrun, foldl_answer_events .., ?_, ?_, ?_, ?_⟩
  · exact foldl_answer_outputs_of_unseen _ _ fun e he k => by rw [List.eq_of_mem_replicate he]; rfl
  all_goals rw [foldl_answer_block, Block.after_ticks]
  · intro hb; simp [Block.phaseAfter, hb]
  · intro hb; simp [Block.phaseAfter, hb]

end Sys2Proof.Machine

/-! ## The grid and the cursor

What PROJECT shows cell by cell, and where the cursor is (spec/43_projector.md R160 to R165, spec/40_addressing_engine.md
R110, R111). -/

namespace Sys2Proof.Machine

/-! ### The cursor position (R110) -/

theorem Rwt.take_toList (t : Rwt) (n : Nat) (hn : n ≤ 4) : t.toList.take n = (List.range n).map t.entry := by
  obtain rfl | rfl | rfl | rfl | rfl : n = 0 ∨ n = 1 ∨ n = 2 ∨ n = 3 ∨ n = 4 := by omega
  all_goals rfl

/-- A list indexed by position, cut at one element: that element and the ones after it are the values at their positions. -/
theorem range_map_split (f : Nat → Nat) (n r : Nat) (pre post : List Nat) (h : (List.range n).map f = pre ++ r :: post) :
    pre.length < n ∧ r = f pre.length ∧ ∀ j, pre.length < j → j < n → f j ∈ post := by
  have hlen : n = pre.length + (post.length + 1) := by simpa using congrArg List.length h
  have hget : ∀ j, j < n → (pre ++ r :: post)[j]? = some (f j) := fun j hj => by rw [← h]; simp [hj]
  refine ⟨by omega, ?_, fun j hj hn => ?_⟩
  · have hr := hget pre.length (by omega)
    simpa using hr
  · obtain ⟨i, rfl⟩ : ∃ i, j = pre.length + (i + 1) := ⟨j - pre.length - 1, by omega⟩
    have hi := hget _ hn
    rw [List.getElem?_append_right (by omega), Nat.add_sub_cancel_left, List.getElem?_cons_succ] at hi
    exact List.mem_of_getElem? hi

/-- The scan over the rows shown: no entry is at or below the pointer, or the last such entry gives row and column. -/
theorem Block.cursorPosition_cases (k : Block) (lines : Nat) (hhi : lines ≤ 4) :
    ((∀ i, i < lines → k.AP < k.RWT.entry i) ∧ k.cursorPosition lines = (0, (k.AP : Int) - k.RWT.entry 0)) ∨
    ∃ i, i < lines ∧ k.RWT.entry i ≤ k.AP ∧ (∀ j, i < j → j < lines → k.AP < k.RWT.entry j) ∧
      k.cursorPosition lines = (i, (k.AP : Int) - k.RWT.entry i) := by
  have hrows : k.RWT.toList.take (min lines 4) = (List.range lines).map k.RWT.entry := by
    rw [Nat.min_eq_left hhi, Rwt.take_toList k.RWT lines hhi]
  rcases scanRows_spec k.AP 0 (k.RWT.toList.take (min lines 4)) (0, (k.AP : Int) - k.RWT.r0) with
    ⟨hall, hscan⟩ | ⟨pre, r, post, hsplit, hr, hpost, hscan⟩
  · refine .inl ⟨fun i hi => hall _ ?_, hscan⟩
    rw [hrows]
    exact List.mem_map_of_mem (List.mem_range.mpr hi)
  · obtain ⟨hlt, rfl, hrest⟩ := range_map_split _ _ _ _ _ (hrows.symm.trans hsplit)
    rw [Nat.zero_add] at hscan
    exact .inr ⟨pre.length, hlt, hr, fun j hj hn => hpost _ (hrest j hj hn), hscan⟩

theorem Block.cursorPosition_of_no_match (k : Block) (lines : Nat) (hhi : lines ≤ 4)
    (h : ∀ i, i < lines → k.AP < k.RWT.entry i) : k.cursorPosition lines = (0, (k.AP : Int) - k.RWT.entry 0) := by
  rcases k.cursorPosition_cases lines hhi with ⟨-, hpos⟩ | ⟨i, hi, hle, -, -⟩
  · exact hpos
  · exact absurd (h i hi) (Nat.not_lt.mpr hle)

theorem Block.cursorPosition_of_last_match (k : Block) (lines i : Nat) (hhi : lines ≤ 4) (hi : i < lines)
    (hle : k.RWT.entry i ≤ k.AP) (hlast : ∀ j, i < j → j < lines → k.AP < k.RWT.entry j) :
    k.cursorPosition lines = (i, (k.AP : Int) - k.RWT.entry i) := by
  rcases k.cursorPosition_cases lines hhi with ⟨hnone, -⟩ | ⟨i', hi', hle', hlast', hpos⟩
  · exact absurd (hnone i hi) (Nat.not_lt.mpr hle)
  · obtain hlt | rfl | hgt := Nat.lt_trichotomy i i'
    · exact absurd (hlast i' hlt hi') (Nat.not_lt.mpr hle')
    · exact hpos
    · exact absurd (hlast' i hgt hi) (Nat.not_lt.mpr hle)

/-- The column is the pointer's distance from the entry of the cursor's row, which is one of the rows shown. -/
theorem Block.cursorPosition_entry (k : Block) (lines : Nat) (hlo : 1 ≤ lines) (hhi : lines ≤ 4) :
    ∃ i, i < lines ∧ k.cursorPosition lines = (i, (k.AP : Int) - k.RWT.entry i) := by
  rcases k.cursorPosition_cases lines hhi with ⟨-, hpos⟩ | ⟨i, hi, -, -, hpos⟩
  · exact ⟨0, hlo, hpos⟩
  · exact ⟨i, hi, hpos⟩

/-- Settles O48: the two outcomes of the scan, and what they have in common. -/
theorem cursorPositionIsLastMatch : Obligations.CursorPositionIsLastMatch := by
  intro k lines hlo hhi
  obtain ⟨row, hrow, hpos⟩ := k.cursorPosition_entry lines hlo hhi
  refine ⟨k.cursorPosition_of_no_match lines hhi, fun i hi hle => k.cursorPosition_of_last_match lines i hhi hi hle, ?_,
    ?_, fun hrange => ?_⟩
  · rw [hpos]; exact hrow
  · rintro rfl
    obtain rfl : row = 0 := Nat.lt_one_iff.mp hrow
    exact hpos
  · obtain ⟨hap, hentry⟩ := (Block.inRange_iff k).mp hrange
    have := hentry row
    rw [hpos]
    constructor <;> dsimp only <;> omega

/-- Settles O49: after the shift no entry is at or below the pointer; at AP = 39 the first of two entries is the last match. -/
theorem boundaryPositionsAreKept : Obligations.BoundaryPositionsAreKept := by
  refine ⟨fun s hap hrwt => ⟨_, exec_cursorControl_eq true true s, ?_, fun lines _ hhi => ?_⟩, fun k hap hrwt => ?_⟩
  · rw [State.complete_block, Block.shift_RWT, hrwt]; rfl
  · have hshift : (s.block.shift true true).RWT = ⟨79, 39, 19, 63⟩ := by rw [Block.shift_RWT, hrwt]; rfl
    have hpos := (s.block.shift true true).cursorPosition_of_no_match lines hhi
    rw [Block.shift_AP, if_pos rfl, hap, hshift] at hpos
    refine hpos fun i hi => ?_
    obtain rfl | rfl | rfl | rfl : i = 0 ∨ i = 1 ∨ i = 2 ∨ i = 3 := by omega
    all_goals decide
  · have hpos := k.cursorPosition_of_last_match 2 0 (by decide) (by decide)
    rw [hap, hrwt] at hpos
    refine hpos (by decide) fun j hj0 hj2 => ?_
    obtain rfl : j = 1 := by omega
    decide

/-! ### The cells of the grid (R160 to R164) -/

/-- The character shown at a position: the DDRAM cell at the row's entry plus the column, modulo 80. -/
theorem Block.cellGlyph_eq (cfg : ProjectorConfig) (k : Block) (x y : Nat) :
    k.cellGlyph cfg x y = glyphOf cfg (k.DDRAM.read ((k.RWT.entry x + y) % 80)) := by
  rw [Block.cellGlyph, memRead, ← Nat.cast_add, mod80_natCast]

theorem Block.isCursorCell_iff (k : Block) (lines x y : Nat) :
    k.isCursorCell lines x y = true ↔ k.cursorPosition lines = (x, (y : Int)) := by
  rw [Block.isCursorCell, Bool.and_eq_true, beq_iff_eq, beq_iff_eq, Prod.ext_iff]

theorem Block.gridCell_off (cfg : ProjectorConfig) (k : Block) (lines x y : Nat) (hd : k.D = false) :
    k.gridCell cfg lines x y = blankGlyph := by
  rw [Block.gridCell, hd, if_neg Bool.false_ne_true]

theorem Block.gridCell_cursor (cfg : ProjectorConfig) (k : Block) (lines x y : Nat) (hd : k.D = true)
    (hpos : k.cursorPosition lines = (x, (y : Int))) :
    k.gridCell cfg lines x y = k.overlayGlyph cfg (k.cellGlyph cfg x y) := by
  rw [Block.gridCell, if_pos hd, if_pos ((k.isCursorCell_iff lines x y).mpr hpos)]

theorem Block.gridCell_other (cfg : ProjectorConfig) (k : Block) (lines x y : Nat) (hd : k.D = true)
    (hpos : k.cursorPosition lines ≠ (x, (y : Int))) : k.gridCell cfg lines x y = k.cellGlyph cfg x y := by
  rw [Block.gridCell, if_pos hd, if_neg (mt (k.isCursorCell_iff lines x y).mp hpos)]

/-- A cell that is not the cursor's, with the display on, shows its character. -/
theorem Block.project_cell_other (cfg : ProjectorConfig) (k : Block) (lines segments x y : Nat) (hx : x < lines)
    (hy : y < segments) (hd : k.D = true) (hpos : k.cursorPosition lines ≠ (x, (y : Int))) :
    ((k.project cfg lines segments)[x]?.bind fun row => row[y]?) =
      some (glyphOf cfg (k.DDRAM.read ((k.RWT.entry x + y) % 80))) := by
  rw [k.project_cell cfg lines segments x y hx hy, k.gridCell_other cfg lines x y hd hpos, k.cellGlyph_eq cfg]

/-- Settles O44: the grid's dimensions, and the character of each cell but the cursor's. -/
theorem projectionShowsTheWindow : Obligations.ProjectionShowsTheWindow := by
  intro cfg k lines segments _ _ _ _
  exact ⟨k.project_length cfg lines segments, k.project_row_length cfg lines segments,
    fun x y hx hy => k.project_cell_other cfg lines segments x y hx hy⟩

/-- Settles O45: the display flag is looked at before the cursor. -/
theorem displayOffIsBlank : Obligations.DisplayOffIsBlank := by
  intro cfg k lines segments hd
  simp only [Block.project, k.gridCell_off cfg lines _ _ hd, List.map_const', List.length_range]

/-- The glyph at the cursor before the underline (R164). -/
def Block.cursorGlyph (cfg : ProjectorConfig) (k : Block) (g : Glyph) : Glyph :=
  if k.CV then fullGlyph else if k.B && cfg.blinkOff == .blank then blankGlyph else g

theorem Block.overlayGlyph_eq (cfg : ProjectorConfig) (k : Block) (g : Glyph) :
    k.overlayGlyph cfg g =
      if k.C then { k.cursorGlyph cfg g with row7 := 0x1F } else k.cursorGlyph cfg g := rfl

theorem Block.cursorGlyph_visible (cfg : ProjectorConfig) (k : Block) (g : Glyph) (hcv : k.CV = true) :
    k.cursorGlyph cfg g = fullGlyph := if_pos hcv

theorem Block.cursorGlyph_blank (cfg : ProjectorConfig) (k : Block) (g : Glyph) (hcv : k.CV = false) (hb : k.B = true)
    (hoff : cfg.blinkOff = .blank) : k.cursorGlyph cfg g = blankGlyph := by
  simp [Block.cursorGlyph, hcv, hb, hoff]

theorem Block.cursorGlyph_character (cfg : ProjectorConfig) (k : Block) (g : Glyph) (hcv : k.CV = false)
    (h : k.B = false ∨ cfg.blinkOff = .character) : k.cursorGlyph cfg g = g := by
  rcases h with hb | hoff
  · simp [Block.cursorGlyph, hcv, hb]
  · simp [Block.cursorGlyph, hcv, hoff]

/-- The cursor cell of a grid, when the cursor's column is one of the grid's. -/
theorem Block.project_cell_cursor (cfg : ProjectorConfig) (k : Block) (lines segments x y : Nat) (hx : x < lines)
    (hy : y < segments) (hd : k.D = true) (hpos : k.cursorPosition lines = (x, (y : Int))) :
    ((k.project cfg lines segments)[x]?.bind fun row => row[y]?) =
      some (k.overlayGlyph cfg (k.cellGlyph cfg x y)) := by
  rw [k.project_cell cfg lines segments x y hx hy, k.gridCell_cursor cfg lines x y hd hpos]

/-- Settles O46: the overlay at the cursor cell, and no overlay where the column is none of the grid's. -/
theorem cursorCellOverlay : Obligations.CursorCellOverlay := by
  intro cfg k lines segments r c hlo hhi hd hpos
  constructor
  · rintro y rfl hy
    obtain ⟨row, hrow, hentry⟩ := k.cursorPosition_entry lines hlo hhi
    obtain rfl : r = row := congrArg Prod.fst (hpos.symm.trans hentry)
    refine ⟨k.cursorGlyph cfg (k.cellGlyph cfg r y), ?_, k.cursorGlyph_visible cfg _, k.cursorGlyph_blank cfg _,
      fun hcv h => ?_⟩
    · rw [k.project_cell_cursor cfg lines segments r y hrow hy hd hpos, Block.overlayGlyph_eq]
    · rw [k.cursorGlyph_character cfg _ hcv h, k.cellGlyph_eq cfg]
  · intro hout x y hx hy
    refine k.project_cell_other cfg lines segments x y hx hy hd fun hcell => ?_
    obtain rfl : c = (y : Int) := congrArg Prod.snd (hpos.symm.trans hcell)
    omega

/-! ### After CLEAR (R165) -/

theorem Block.clearAll_cursorPosition (k : Block) (lines : Nat) (hlo : 1 ≤ lines) (hhi : lines ≤ 4) :
    k.clearAll.cursorPosition lines = (0, 0) := by
  refine k.clearAll.cursorPosition_of_last_match lines 0 hhi hlo (Nat.le_refl 0) fun j hj0 hj => ?_
  obtain rfl | rfl | rfl : j = 1 ∨ j = 2 ∨ j = 3 := by omega
  all_goals simp [Block.clearAll_eq]

/-- No cell is listed, so every position holds the space. -/
theorem Block.clearAll_cellGlyph (cfg : ProjectorConfig) (k : Block) (x y : Nat) :
    k.clearAll.cellGlyph cfg x y = blankGlyph := glyphOf_space cfg

/-- Over a blank character the two invisible phases look the same, and FULL has its row 7 lit already. -/
theorem Block.overlayGlyph_blank (cfg : ProjectorConfig) (k : Block) :
    k.overlayGlyph cfg blankGlyph =
      if k.CV then fullGlyph else if k.C then { blankGlyph with row7 := 0x1F } else blankGlyph := by
  rw [Block.overlayGlyph_eq, Block.cursorGlyph, ite_self]
  cases k.CV with
  | true => cases k.C <;> rfl
  | false => rfl

/-- Settles O47: after CLEAR the cursor is at home and every character is blank. -/
theorem gridAfterClear : Obligations.GridAfterClear := by
  intro cfg s lines segments hlo hhi hseg _ hd
  have hpos := s.block.clearAll_cursorPosition lines hlo hhi
  have hon : s.block.clearAll.D = true := hd
  refine ⟨_, exec_clear_eq s, hpos, fun x y hx hy hne => ?_, ?_⟩ <;> rw [State.complete_block]
  · have hcell : s.block.clearAll.cursorPosition lines ≠ (x, (y : Int)) := by
      intro h
      obtain ⟨hx0, hy0⟩ := Prod.mk.inj (hpos.symm.trans h)
      exact hne (Prod.ext hx0.symm (by omega))
    rw [Block.project_cell _ _ _ _ _ _ hx hy, Block.gridCell_other _ _ _ _ _ hon hcell, Block.clearAll_cellGlyph]
  · rw [Block.project_cell_cursor _ _ _ _ _ _ hlo hseg hon hpos, Block.clearAll_cellGlyph, Block.overlayGlyph_blank]
    rfl

/-! ### The PROJECT event and the resize path (R160, R161, R168) -/

theorem segmentsInRange_iff (segments : Nat) : segmentsInRange segments = true ↔ 1 ≤ segments ∧ segments ≤ 80 := by
  simp [segmentsInRange]

theorem Event.project_wellFormed_iff (lines segments : Nat) :
    (Event.project lines segments).wellFormed = true ↔ (1 ≤ lines ∧ lines ≤ 4) ∧ 1 ≤ segments ∧ segments ≤ 80 := by
  rw [Event.wellFormed, Bool.and_eq_true, linesInRange_iff, segmentsInRange_iff]

/-- Settles O51: the range check of PROJECT and of `cursor_position`, on either side. -/
theorem projectEventShowsTheGrid : Obligations.ProjectEventShowsTheGrid := by
  refine fun s rest lines segments => ⟨fun hs hl hl' hn hn' => ?_, fun hs hout => ?_, fun hs hout => ?_⟩
  · exact step_of_wellFormed s _ rest hs ((Event.project_wellFormed_iff ..).mpr ⟨⟨hl, hl'⟩, hn, hn'⟩)
  · refine (step_event s _ rest hs).trans (if_neg fun hin => ?_)
    obtain ⟨⟨hl, hl'⟩, hn, hn'⟩ := (Event.project_wellFormed_iff ..).mp hin
    omega
  · refine (step_event s _ rest hs).trans (if_neg fun hin => ?_)
    obtain ⟨hl, hl'⟩ := (linesInRange_iff lines).mp hin
    omega

/-- Settles O52: the resize is answered by the state itself, and a PROJECT checks its own counts. -/
theorem resizeLeavesTheStateUnchanged : Obligations.ResizeLeavesTheStateUnchanged := by
  refine fun s rest lines segments hs => ⟨step_of_wellFormed s _ rest hs rfl, ?_⟩
  rintro l n later rfl hl hl' hn hn'
  have hproject := (Event.project_wellFormed_iff l n).mpr ⟨⟨hl, hl'⟩, hn, hn'⟩
  exact run_events [.updateDisplay lines segments, .project l n] s later (by simpa [Event.wellFormed] using hproject) hs

end Sys2Proof.Machine
